-- ==== Sys2Proof/Word.lean ====
section
/-! DEFINITION. The widths of the MFTD's values: bytes, 16-bit fields, the `len` port, the dispatch key, and text. -/

namespace Sys2Proof

/-- A payload byte, unsigned, 0..255; bit 7 is the most significant (20_memory.md R40, R44). -/
abbrev Byte := BitVec 8

/-- An assembled 16-bit field, unsigned when read (30_encoding.md R66). -/
abbrev Half := BitVec 16

/-- The value of the `len` port, `LEN_W = 8` bits (00_scope.md section 6; 10_state.md R25). -/
abbrev Len := BitVec 8

/-- The dispatch key: the transport as bit 8, the identifier as bits 7:0 (30_encoding.md R61). -/
abbrev Key := BitVec 9

/-- A character string, as the URL text front end sees it (45_url_front_end.md R180). -/
abbrev Text := List Char

end Sys2Proof
end

