-- ==== Sys2Proof/Config.lean ====
section
/-! DEFINITION. The implementation parameters of 00_scope.md section 6, and the free values: constants with no body,
of which nothing can be proved, so that a statement about them holds whatever they are. -/

namespace Sys2Proof

/-- `PL_BYTES`: how many payload bytes the port `pl` shows (00_scope.md section 6; 10_state.md R25; D2). -/
abbrev Config.plBytes : Nat := 20

/-- The largest value of the `len` port; longer payloads are presented with this one (10_state.md R25; D2). -/
abbrev Config.lenMax : Nat := 255

/-- The OPEN parameters of the host's URL text front end (00_scope.md section 6; 45_url_front_end.md; D14): a host model
takes them as an argument. -/
structure FrontEndParams where
  /-- `HOST_MARKER` (R181; log 8). -/
  hostMarker : Text
  /-- `PAD3`: three characters, which ones is not stated (R183; log 8). -/
  pad3 : Char × Char × Char
  /-- `B64`: text to bytes, or failure (R184; D20; log 8). -/
  b64 : Text → Option (List Byte)
  /-- Whether a `#` followed by nothing counts as a fragment: left open (R182; U12; log 10). -/
  emptyFragmentCounts : Text → Bool
  /-- What fragment, if any, a text with several `#` has: left open (R182; U12; log 9). -/
  fragmentOfSeveral : Text → Option Text
  deriving Inhabited

/-- The parameters of the host at hand: a constant of which nothing is known (log 8, log 9, log 10). -/
opaque Config.frontEnd : FrontEndParams

/-- What the host drives on a position of `pl` at or past the payload's end, by the number of outcomes it holds so far
and the position: "the host may drive any value" (10_state.md R25; log 7). -/
opaque Config.undrivenByte : Nat → Nat → Byte

/-- What a pair of hex digits of which one is above 9 reads as in decimal: left open (40_primitives.md R93;
91_not_in_source.md N11; log 25). -/
opaque Config.nonDecimalPair : Nat → Nat → Nat

end Sys2Proof
end

