-- ==== Sys2Proof/Machine/Memory.lean ====
section
/-! DEFINITION. The payload space on the port `pl`: a canonical list of (offset, byte), its read and the host's write
(20_memory.md R40 to R48). The block itself has no write (R40, R55); the host drives `pl` (R49). -/

namespace Sys2Proof.Machine

/-- The bytes on `pl`, as (offset, byte) pairs; an offset that is not listed carries `Memory.unlisted`. -/
abbrev Memory := List Host.Cell

/-- What an offset that is not listed carries (log 5, DESIGN CHOICE). -/
def Memory.unlisted : Byte := 0

/-- The byte at one offset. -/
def Memory.read : Memory → Nat → Byte
  | [], _ => Memory.unlisted
  | (k, b) :: m, a => if k = a then b else Memory.read m a

/-- Put one byte into a canonical list, keeping it canonical. -/
def Memory.insert : Memory → Nat → Byte → Memory
  | [], a, b => if b = Memory.unlisted then [] else [(a, b)]
  | (k, c) :: m, a, b =>
    if a < k then (if b = Memory.unlisted then (k, c) :: m else (a, b) :: (k, c) :: m)
    else if a = k then (if b = Memory.unlisted then m else (a, b) :: m)
    else (k, c) :: Memory.insert m a b

/-- The host drives one position of `pl`; there is no position at or past `PL_BYTES` (20_memory.md R41). -/
def Memory.write (m : Memory) (a : Nat) (b : Byte) : Memory :=
  if a < Config.plBytes then Memory.insert m a b else m

/-- The host drives the positions from `a` on with the given bytes. -/
def Memory.driveFrom (a : Nat) : List Byte → Memory
  | [] => []
  | b :: bs => Memory.write (Memory.driveFrom (a + 1) bs) a b

/-- The canonical form from offset `lo` up: rising offsets below `PL_BYTES`, no entry equal to an unlisted one. -/
def Memory.wfFrom : Nat → Memory → Bool
  | _, [] => true
  | lo, (k, b) :: m =>
    decide (lo ≤ k) && decide (k < Config.plBytes) && decide (b ≠ Memory.unlisted) && Memory.wfFrom (k + 1) m

/-- The canonical form of `pl`: equal contents are equal lists. -/
def Memory.wf (m : Memory) : Bool := Memory.wfFrom 0 m

/-- `MemRead(addr, n)` is legal: the bytes exist (20_memory.md R42) and are presented (R41). -/
def readLegal (len : Len) (addr n : Nat) : Bool :=
  decide (addr + n ≤ len.toNat) && decide (addr + n ≤ Config.plBytes)

/-- `MemRead(addr, 2)` on two bytes that are there: `{pl[addr], pl[addr+1]}`, the byte at the lower offset the more
significant (20_memory.md R42, R43; 30_encoding.md R66). -/
def Memory.read16 (m : Memory) (addr : Nat) : Half := m.read addr ++ m.read (addr + 1)

end Sys2Proof.Machine
end

