-- ==== Sys2Proof/Syntax.lean ====
section
/-! DEFINITION. The transports and the four decode operations with their operand fields (30_encoding.md R60 to R70). -/

namespace Sys2Proof

/-- Which entry point the payload came through (30_encoding.md R60; 10_state.md Table 10-1). -/
inductive Transport where
  /-- `transport = 0`: the byte half of `decodeFromUrl`; identifier at offset 0. -/
  | url
  /-- `transport = 1`: `decodeFromAdvertisement`; identifier at offset 2. -/
  | raw
  deriving DecidableEq, Repr

/-- The four operations of Table 30-1 (30_encoding.md R62), one constructor per row of the opcode table. Operands are
the fields the layouts name; bytes a layout does not read are no operands (R72; log 15). -/
inductive Instr where
  /-- `DF2`: layout L24, identifier 2 (R63, R100). `eid` is present exactly when `len = 7` (R73). -/
  | df2 (hum temp : Byte) (press : Half) (eid : Option Byte)
  /-- `DF4`: layout L24, identifier 4 (R63, R101). -/
  | df4 (hum temp : Byte) (press : Half) (eid : Option Byte)
  /-- `DF3`: layout L3, identifier 3, 16 bytes (R64, R120). -/
  | df3 (hum tInt tFrac : Byte) (press ax ay az batt : Half)
  /-- `DF5`: layout L5, identifier 5, `len` from 20 to 255 (R65, R73, R140). -/
  | df5 (len : Len) (temp hum press ax ay az powerInfo : Half) (move : Byte) (seq : Half)
  deriving DecidableEq, Repr

/-- A transaction as the host writes it: transport, `len` and the presented bytes from offset 0 (30_encoding.md R60). -/
structure Transaction where
  transport : Transport
  len : Len
  bytes : List Byte
  deriving DecidableEq, Repr

end Sys2Proof
end

