-- ==== Sys2Proof/Machine/Outcome.lean ====
section
/-! DEFINITION. What a transaction yields: a reading (scaled integers, and the exact rationals they stand for) or an
error (10_state.md R27, R33; 60_exceptions.md R190). -/

namespace Sys2Proof.Machine

/-- The errors the block can report, each with its context (10_state.md R27; 60_exceptions.md R192 to R195). -/
inductive DecodeError where
  | unsupportedFormat (identifier : Byte)
  | malformedLength (length : Len)
  | malformedEncoding (offending : Byte)
  deriving DecidableEq, Repr

/-- The errors of the URL text front end, before any bytes exist (60_exceptions.md R196; 45_url_front_end.md R181,
R182, R184). No context is stated for them (log 12). -/
inductive FrontEndError where
  | notARecognizedUrl
  | malformedUrl
  | malformedEncoding
  deriving DecidableEq, Repr

/-- The fields of a V2 or V4 reading at port scale: half percents, degrees, hundredths of DOC00's pressure value
(10_state.md Table 10-3). -/
structure Fields24 where
  humidity : Nat
  temperature : Int
  pressure : Nat
  eddystoneId : Option Byte
  deriving DecidableEq, Repr

/-- The fields of a V3 reading at port scale: half percents, hundredths of a degree, pascals, milli-g, millivolts. -/
structure Fields3 where
  humidity : Nat
  temperature : Int
  pressure : Nat
  accelerationX : Int
  accelerationY : Int
  accelerationZ : Int
  battery : Nat
  deriving DecidableEq, Repr

/-- The fields of a V5 reading at port scale: 1/200 degree, 1/400 percent, pascals, milli-g, millivolts, dBm. -/
structure Fields5 where
  temperature : Int
  humidity : Nat
  pressure : Nat
  accelerationX : Int
  accelerationY : Int
  accelerationZ : Int
  battery : Nat
  txPower : Int
  movementCounter : Byte
  measurementSequenceNumber : Nat
  deriving DecidableEq, Repr

/-- A reading whose fields are the integers the ports carry (10_state.md R33; D4). -/
inductive Reading where
  | v2 (f : Fields24)
  | v4 (f : Fields24)
  | v3 (f : Fields3)
  | v5 (f : Fields5)
  deriving DecidableEq, Repr

/-- The abstract reading of 10_state.md R27, with exact rationals. -/
inductive DecodedReading where
  | v2 (humidity : Rat) (temperature : Int) (pressure : Rat) (eddystoneId : Option Byte)
  | v4 (humidity : Rat) (temperature : Int) (pressure : Rat) (eddystoneId : Option Byte)
  | v3 (humidity temperature : Rat) (pressure : Nat) (accelerationX accelerationY accelerationZ : Int) (battery : Nat)
  | v5 (temperature humidity : Rat) (pressure : Nat) (accelerationX accelerationY accelerationZ : Int)
      (battery : Nat) (txPower : Int) (movementCounter : Byte) (measurementSequenceNumber : Nat)
  deriving DecidableEq, Repr

/-- Exactly one of a reading and an error (10_state.md R26, R27); `ρ` is `Reading` or `DecodedReading`. -/
inductive DecodeOutcome (ρ : Type) where
  | reading (r : ρ)
  | error (e : DecodeError)
  deriving DecidableEq, Repr

/-- The abstract value of a scaled reading: each field over its denominator (10_state.md R33; 40_primitives.md R98). -/
def Reading.value : Reading → DecodedReading
  | .v2 f => .v2 (f.humidity / 2) f.temperature (f.pressure / 100) f.eddystoneId
  | .v4 f => .v4 (f.humidity / 2) f.temperature (f.pressure / 100) f.eddystoneId
  | .v3 f => .v3 (f.humidity / 2) (f.temperature / 100) f.pressure
      f.accelerationX f.accelerationY f.accelerationZ f.battery
  | .v5 f => .v5 (f.temperature / 200) (f.humidity / 400) f.pressure
      f.accelerationX f.accelerationY f.accelerationZ f.battery f.txPower f.movementCounter f.measurementSequenceNumber

end Sys2Proof.Machine
end

