-- ==== Sys2Proof/WellFormed.lean ====
section
/-! DEFINITION. Which operand values an encoding admits (30_encoding.md R73, R76). -/

namespace Sys2Proof

/-- Every operand value of DF2, DF4 and DF3 has an encoding (R76); the `len` of a DF5 is at least 20 (R73, R140). A
humidity byte of DF3 that is not two decimal digits is a legal encoding whose operation raises malformed-encoding
(42_format_3.md R120, R131). -/
def WellFormed (i : Instr) : Bool :=
  match i with
  | .df2 _ _ _ _ => true
  | .df4 _ _ _ _ => true
  | .df3 _ _ _ _ _ _ _ _ => true
  | .df5 len _ _ _ _ _ _ _ _ _ => decide (20 ≤ len.toNat)

end Sys2Proof
end

