-- ==== Sys2Proof/Decode.lean ====
section
/-! DEFINITION. The dispatcher's reading of a transaction (44_dispatch.md R161, R162, R166), the encoder, and the
opcode table's words. -/

namespace Sys2Proof

open Sys2Proof.Machine (Memory DecodeError readLegal)

/-- Why a transaction selects no operation: an error of the dispatcher, or a read at an offset the payload does not
have, which the guards exclude (20_memory.md R46). -/
inductive DecodeReject where
  | error (e : DecodeError)
  | illegalRead (offset : Nat)
  deriving DecidableEq, Repr

/-- `MemRead(addr, 1)`, checked (20_memory.md R42). -/
def memRead1 (len : Len) (pl : Memory) (addr : Nat) : Except DecodeReject Byte :=
  if readLegal len addr 1 then .ok (pl.read addr) else .error (.illegalRead addr)

/-- `MemRead(addr, 2)`, which is `be16(addr)`, checked (20_memory.md R42; 40_primitives.md R92). -/
def memRead2 (len : Len) (pl : Memory) (addr : Nat) : Except DecodeReject Half :=
  if readLegal len addr 2 then .ok (pl.read16 addr) else .error (.illegalRead addr)

/-- `if len = 7 then some(pl[6]) else none` (41_format_2_4.md R106; 30_encoding.md R73). A `len` other than 6 and 7, which
the dispatcher excludes, also takes the second arm (log 26, DESIGN CHOICE). -/
def readEid (len : Len) (pl : Memory) : Except DecodeReject (Option Byte) :=
  if len = 7 then (memRead1 len pl 6).map some else .ok none

/-- The operands of layout L24 with identifier 2 (30_encoding.md R63). For a `len` other than 6 and 7 R108 defines no
behaviour; what is answered there is the model's choice (log 26), and the dispatcher never asks. -/
def decodeDf2 (len : Len) (pl : Memory) : Except DecodeReject Instr := do
  let hum ← memRead1 len pl 1
  let temp ← memRead1 len pl 2
  let press ← memRead2 len pl 4
  let eid ← readEid len pl
  return .df2 hum temp press eid

/-- The operands of layout L24 with identifier 4 (30_encoding.md R63). For a `len` other than 6 and 7 R108 defines no
behaviour; what is answered there is the model's choice (log 26), and the dispatcher never asks. -/
def decodeDf4 (len : Len) (pl : Memory) : Except DecodeReject Instr := do
  let hum ← memRead1 len pl 1
  let temp ← memRead1 len pl 2
  let press ← memRead2 len pl 4
  let eid ← readEid len pl
  return .df4 hum temp press eid

/-- The operands of layout L3 (30_encoding.md R64). What is answered for a `len` other than 16 is the model's choice
(log 26); the dispatcher never asks (42_format_3.md R127). -/
def decodeDf3 (len : Len) (pl : Memory) : Except DecodeReject Instr := do
  let hum ← memRead1 len pl 3
  let tInt ← memRead1 len pl 4
  let tFrac ← memRead1 len pl 5
  let press ← memRead2 len pl 6
  let ax ← memRead2 len pl 8
  let ay ← memRead2 len pl 10
  let az ← memRead2 len pl 12
  let batt ← memRead2 len pl 14
  return .df3 hum tInt tFrac press ax ay az batt

/-- The operands of layout L5 (30_encoding.md R65). What is answered for a `len` below 20 is the model's choice (log 26);
the dispatcher never asks (43_format_5.md R151). -/
def decodeDf5 (len : Len) (pl : Memory) : Except DecodeReject Instr := do
  let temp ← memRead2 len pl 3
  let hum ← memRead2 len pl 5
  let press ← memRead2 len pl 7
  let ax ← memRead2 len pl 9
  let ay ← memRead2 len pl 11
  let az ← memRead2 len pl 13
  let powerInfo ← memRead2 len pl 15
  let move ← memRead1 len pl 17
  let seq ← memRead2 len pl 18
  return .df5 len temp hum press ax ay az powerInfo move seq

/-- `DispatchURL` up to the decoder: first the length, then the identifier at offset 0 (44_dispatch.md R161). -/
def dispatchUrl (len : Len) (pl : Memory) : Except DecodeReject Instr :=
  if len.toNat < 6 ∨ 7 < len.toNat then .error (.error (.malformedLength len))
  else do
    let id ← memRead1 len pl 0
    if id = 2 then decodeDf2 len pl
    else if id = 4 then decodeDf4 len pl
    else .error (.error (.unsupportedFormat id))

/-- `DispatchRAW` up to the decoder: offset 2 must exist, then the identifier, then the length its format asks for
(44_dispatch.md R162). The company identifier at offsets 0 and 1 is not read (R167). -/
def dispatchRaw (len : Len) (pl : Memory) : Except DecodeReject Instr :=
  if len.toNat < 3 then .error (.error (.malformedLength len))
  else do
    let id ← memRead1 len pl 2
    if id = 3 then
      if len.toNat ≠ 16 then .error (.error (.malformedLength len)) else decodeDf3 len pl
    else if id = 5 then
      if len.toNat < 20 then .error (.error (.malformedLength len)) else decodeDf5 len pl
    else .error (.error (.unsupportedFormat id))

/-- The operation a transaction selects, or why it selects none (44_dispatch.md R166). -/
def decode (t : Transport) (len : Len) (pl : Memory) : Except DecodeReject Instr :=
  match t with
  | .url => dispatchUrl len pl
  | .raw => dispatchRaw len pl

/-- The byte of a 16-bit field that stands at the lower offset (20_memory.md R43). -/
def highByte (h : Half) : Byte := h.extractLsb' 8 8

/-- The byte of a 16-bit field that stands at the higher offset. -/
def lowByte (h : Half) : Byte := h.extractLsb' 0 8

/-- A 16-bit field as its two payload bytes, big-endian. -/
def halfBytes (h : Half) : List Byte := [highByte h, lowByte h]

/-- Layout L24 (Table 30-2): the byte at offset 3 is unused and written as 0 (30_encoding.md R72). -/
def encodeL24 (id hum temp : Byte) (press : Half) (eid : Option Byte) : Transaction :=
  match eid with
  | none => ⟨.url, 6, [id, hum, temp, 0] ++ halfBytes press⟩
  | some e => ⟨.url, 7, [id, hum, temp, 0] ++ halfBytes press ++ [e]⟩

/-- The words of an instruction, from Tables 30-2, 30-3 and 30-4; unread bytes are written as 0 (30_encoding.md R63 to
R65, R72). -/
def encode : Instr → Transaction
  | .df2 hum temp press eid => encodeL24 2 hum temp press eid
  | .df4 hum temp press eid => encodeL24 4 hum temp press eid
  | .df3 hum tInt tFrac press ax ay az batt =>
    ⟨.raw, 16, [0, 0, 3, hum, tInt, tFrac] ++ halfBytes press ++ halfBytes ax ++ halfBytes ay ++ halfBytes az
      ++ halfBytes batt⟩
  | .df5 len temp hum press ax ay az powerInfo move seq =>
    ⟨.raw, len, [0, 0, 5] ++ halfBytes temp ++ halfBytes hum ++ halfBytes press ++ halfBytes ax ++ halfBytes ay
      ++ halfBytes az ++ halfBytes powerInfo ++ [move] ++ halfBytes seq⟩

/-- Decode a transaction written out as bytes. -/
def decodeTransaction (x : Transaction) : Except DecodeReject Instr :=
  decode x.transport x.len (Memory.driveFrom 0 x.bytes)

/-- The dispatch key of a transport and an identifier (30_encoding.md R61). -/
def dispatchKey (t : Transport) (id : Byte) : Key :=
  match t with
  | .url => (0 : BitVec 1) ++ id
  | .raw => (1 : BitVec 1) ++ id

/-- The offset at which a transport carries the identifier (30_encoding.md R61). -/
def idOffset : Transport → Nat
  | .url => 0
  | .raw => 2

/-- The key an operation is selected by (Table 30-1 of 30_encoding.md R62; the table's match column). -/
def keyOf : Instr → Key
  | .df2 _ _ _ _ => 0x002
  | .df4 _ _ _ _ => 0x004
  | .df3 _ _ _ _ _ _ _ _ => 0x103
  | .df5 _ _ _ _ _ _ _ _ _ _ => 0x105

/-- The legal values of `len` under a key (Table 30-1); `false` for a key that selects no operation. -/
def legalLength (key : Key) (len : Nat) : Bool :=
  if key = 0x002 ∨ key = 0x004 then decide (len = 6 ∨ len = 7)
  else if key = 0x103 then decide (len = 16)
  else if key = 0x105 then decide (20 ≤ len)
  else false

/-- The transport bit of an opcode table word: bit 8 of the key (30_encoding.md R61). -/
def tableTransport (w : Nat) : Transport := if w / 256 % 2 = 0 then .url else .raw

/-- The identifier byte of an opcode table word: bits 7:0 of the key (30_encoding.md R61). -/
def tableId (w : Nat) : Byte := BitVec.ofNat 8 w

/-- The length an opcode table word is presented with. The table's word is the key alone; `len` is no bit of it (R73),
so the shortest legal length of the format is taken (log 13, DESIGN CHOICE). -/
def tableLen (w : Nat) : Len :=
  match tableTransport w with
  | .url => 6
  | .raw => if tableId w = 3 then 16 else 20

/-- The transaction of an opcode table word: the identifier at its transport's offset, every other byte 0. Bits of the
word above the key are not part of it and are ignored, as the table's mask `0x1FF` says. -/
def tableTransaction (nbits w : Nat) : Transaction :=
  let v := w % 2 ^ nbits
  match tableTransport v with
  | .url => ⟨.url, tableLen v, [tableId v]⟩
  | .raw => ⟨.raw, tableLen v, [0, 0, tableId v]⟩

/-- The instruction the decoder reads from an opcode table word. -/
def decodeTableWord (nbits w : Nat) : Option Instr :=
  match decodeTransaction (tableTransaction nbits w) with
  | .ok i => some i
  | .error _ => none

end Sys2Proof
end

