-- ==== Sys2Proof/Machine/State.lean ====
section
/-! DEFINITION. The ports of the block (10_state.md Tables 10-1 and 10-2), the host's requests and what it has sampled.
The block itself holds no state (R20): what stands here is the settled value of every port, and the host's side. -/

namespace Sys2Proof.Machine

/-- The input ports (10_state.md R25, Table 10-1). -/
structure InPorts where
  /-- `in_valid`. -/
  inValid : Bool
  /-- `transport`. -/
  transport : Transport
  /-- `len`. -/
  len : Len
  /-- `pl[0]` .. `pl[19]`. -/
  pl : Memory
  deriving DecidableEq, Repr

/-- The output ports (10_state.md R26, Table 10-2). -/
structure OutPorts where
  /-- `out_valid`. -/
  outValid : Bool
  /-- `ok`. -/
  ok : Bool
  /-- `err_code`. -/
  errCode : BitVec 3
  /-- `err_info`. -/
  errInfo : BitVec 8
  /-- `variant`. -/
  variant : BitVec 3
  /-- `humidity`, unsigned. -/
  humidity : BitVec 16
  /-- `temperature`, two's complement. -/
  temperature : BitVec 16
  /-- `pressure`, unsigned. -/
  pressure : BitVec 17
  /-- `accel_x`, two's complement. -/
  accelX : BitVec 16
  /-- `accel_y`, two's complement. -/
  accelY : BitVec 16
  /-- `accel_z`, two's complement. -/
  accelZ : BitVec 16
  /-- `battery`, unsigned. -/
  battery : BitVec 16
  /-- `tx_power`, two's complement. -/
  txPower : BitVec 8
  /-- `movement`, unsigned. -/
  movement : BitVec 8
  /-- `seq`, unsigned. -/
  seq : BitVec 16
  /-- `eid_valid`. -/
  eidValid : Bool
  /-- `eid`. -/
  eid : BitVec 8
  deriving DecidableEq, Repr

/-- The idle pattern: every output 0 (10_state.md R28). -/
def OutPorts.idle : OutPorts :=
  { outValid := false, ok := false, errCode := 0, errInfo := 0, variant := 0, humidity := 0, temperature := 0,
    pressure := 0, accelX := 0, accelY := 0, accelZ := 0, battery := 0, txPower := 0, movement := 0, seq := 0,
    eidValid := false, eid := 0 }

/-- What the host may do next (log 4). -/
inductive HostRequest where
  /-- Drive the input ports as given, idle or with a transaction (10_state.md R25, R28). -/
  | ports (p : InPorts)
  /-- Call `decodeFromAdvertisement` on a byte sequence (44_dispatch.md R160). -/
  | advertisement (bytes : List Byte)
  /-- Call `decodeFromUrl` on a text (44_dispatch.md R160; 45_url_front_end.md R180). -/
  | url (text : Text)
  deriving DecidableEq, Repr

/-- What the host has in hand after a request (70_reset_and_hazards.md R225). -/
inductive HostResult where
  /-- The output ports as sampled. -/
  | sampled (out : OutPorts)
  /-- The front end failed; the block was not invoked (45_url_front_end.md R186). -/
  | frontEnd (e : FrontEndError)
  deriving DecidableEq, Repr

/-- The block's ports and the host's side. -/
structure State where
  /-- The input ports. -/
  inp : InPorts
  /-- The output ports. -/
  out : OutPorts
  /-- The host's requests still to be served, first first: the MODEL's own field (log 4). -/
  pending : List HostRequest
  /-- What the host has received, oldest first: the MODEL's own field (log 4). -/
  results : List HostResult
  deriving DecidableEq, Repr

/-- Why a step stops with a fault. -/
inductive Fault where
  /-- A read at an offset the payload does not have (20_memory.md R42, R46). Raised by the step when the decoder asks
  for such a byte; the dispatcher's guards exclude it, so no step is expected to raise it. Safe: the model stops. -/
  | noSuchOffset (offset : Nat)
  deriving DecidableEq, Repr

/-- Why a step refuses an instruction. -/
inductive Refusal where
  /-- An instruction without a meaning. Raised by nobody: all four operations have their meaning. Safe. -/
  | notModelled (mnemonic : String)
  deriving DecidableEq, Repr

/-- The input ports when the host holds the block idle during and after reset (70_reset_and_hazards.md R221); the other
inputs may be anything then, and are 0 here (log 2, DESIGN CHOICE). -/
def InPorts.reset : InPorts := { inValid := false, transport := .url, len := 0, pl := [] }

/-- Right after reset: idle inputs, the idle pattern on the outputs (R28, R220, R221), nothing asked, nothing sampled. -/
def State.reset : State := { inp := InPorts.reset, out := OutPorts.idle, pending := [], results := [] }

end Sys2Proof.Machine
end

