-- ==== Sys2Proof/Machine/Operands.lean ====
section
/-! DEFINITION. The byte-level primitives and bit slices of the operand fields (40_primitives.md R90 to R99;
30_encoding.md R66 to R70; 20_memory.md R44, R56). -/

namespace Sys2Proof.Machine

/-- The sign flag of a sign-and-magnitude byte: bit 7 (30_encoding.md R67). -/
def signFlag (b : Byte) : Bool := b.getLsbD 7

/-- The magnitude of a sign-and-magnitude byte: bits 6:0 (30_encoding.md R67). -/
def magnitude (b : Byte) : Nat := (b &&& 0x7F).toNat

/-- `recoverSigned` (40_primitives.md R90). -/
def recoverSigned (b : Byte) : Int := if signFlag b then -(magnitude b : Int) else magnitude b

/-- `twosComplement16` (40_primitives.md R91). -/
def twosComplement16 (raw : Half) : Int :=
  if raw.toNat > 32767 then (raw.toNat : Int) - 65536 else raw.toNat

/-- The high nibble `b[7:4]`. -/
def highNibble (b : Byte) : Nat := b.toNat / 16

/-- The low nibble `b[3:0]`. -/
def lowNibble (b : Byte) : Nat := b.toNat % 16

/-- Both nibbles are decimal digits: the domain of `dec2` (40_primitives.md R93; 42_format_3.md R131). -/
def isDec2 (b : Byte) : Bool := decide (highNibble b ≤ 9) && decide (lowNibble b ≤ 9)

/-- A pair of hex digits read as a plain decimal number (40_primitives.md R93). With a digit above 9 the spec leaves the
value open and it is a free value (log 25, DESIGN CHOICE). -/
def decimalOf (hi lo : Nat) : Nat := if hi ≤ 9 ∧ lo ≤ 9 then 10 * hi + lo else Config.nonDecimalPair hi lo

/-- `dec2`: the byte's digit pair read as a decimal number (40_primitives.md R93); outside its domain a free value
(log 25, DESIGN CHOICE), which no step uses. -/
def dec2 (b : Byte) : Nat := decimalOf (highNibble b) (lowNibble b)

/-- `df5Temp`, with the constant 65534 (40_primitives.md R94). -/
def df5Temp (raw : Half) : Int :=
  if raw.toNat > 32767 then (raw.toNat : Int) - 65534 else raw.toNat

/-- `T100`: the combined value in hundredths (40_primitives.md R95). -/
def t100 (i f : Byte) : Nat := 100 * i.toNat + f.toNat

/-- `thr128`, in hundredths: negate what exceeds 128.00 (40_primitives.md R95). -/
def thr128 (i f : Byte) : Int :=
  if t100 i f > 12800 then -((t100 i f : Int) - 12800) else t100 i f

/-- The fixed pressure offset: 17 bits hold the sum (41_format_2_4.md R105; 42_format_3.md R123; 43_format_5.md R143). -/
def pressureOf (press : Half) : Nat := press.toNat + 50000

/-- Battery of the packed power field: the 11 high bits plus 1600 (43_format_5.md R146). -/
def powerBattery (powerInfo : Half) : Nat := (powerInfo >>> 5).toNat + 1600

/-- Transmit power of the packed power field: twice the 5 low bits, minus 40 (43_format_5.md R147). -/
def powerTx (powerInfo : Half) : Int := ((powerInfo &&& 0b11111).toNat : Int) * 2 - 40

/-- The hex-digit string `H` of a payload: two digits a byte, the high nibble first (20_memory.md R56). -/
def hexDigit (pl : Memory) (j : Nat) : Nat :=
  if j % 2 = 0 then highNibble (pl.read (j / 2)) else lowNibble (pl.read (j / 2))

/-- A "16-bit hex value at relative offset k": four digits of `H` as a base-16 number (20_memory.md R56). -/
def hexValue16 (pl : Memory) (k : Nat) : Nat :=
  ((hexDigit pl (2 * k) * 16 + hexDigit pl (2 * k + 1)) * 16 + hexDigit pl (2 * k + 2)) * 16 + hexDigit pl (2 * k + 3)

/-- The "hex-digit pair at relative offset k" read as a plain decimal number (42_format_3.md R121); with a digit above 9
a free value (log 25, DESIGN CHOICE). -/
def decimalPair (pl : Memory) (k : Nat) : Nat := decimalOf (hexDigit pl (2 * k)) (hexDigit pl (2 * k + 1))

end Sys2Proof.Machine
end

