-- ==== Sys2Proof/Machine/Flags.lean ====
section
/-! DEFINITION. The outcome flags on the ports `ok`, `err_code`, `err_info`, `variant`, `eid_valid` (10_state.md R26, R36;
60_exceptions.md R191, R192). None of them persists (10_state.md R23). -/

namespace Sys2Proof.Machine

/-- The numeric code of a block error (60_exceptions.md R191). -/
def DecodeError.code : DecodeError → BitVec 3
  | .unsupportedFormat _ => 1
  | .malformedLength _ => 2
  | .malformedEncoding _ => 3

/-- The context of a block error (60_exceptions.md R192). -/
def DecodeError.info : DecodeError → BitVec 8
  | .unsupportedFormat identifier => identifier
  | .malformedLength length => length
  | .malformedEncoding offending => offending

/-- The numeric code of a front end error, which the block never drives (60_exceptions.md R191, R196). -/
def FrontEndError.code : FrontEndError → BitVec 3
  | .malformedEncoding => 3
  | .notARecognizedUrl => 4
  | .malformedUrl => 5

/-- The tag of a reading: its format identifier (10_state.md R26, R27). -/
def Reading.tag : Reading → BitVec 3
  | .v2 _ => 2
  | .v4 _ => 4
  | .v3 _ => 3
  | .v5 _ => 5

/-- `ok` (10_state.md R26). -/
def okFlag : DecodeOutcome Reading → Bool
  | .reading _ => true
  | .error _ => false

/-- `err_code`: 0 for a reading (60_exceptions.md R191). -/
def errCodeFlag : DecodeOutcome Reading → BitVec 3
  | .reading _ => 0
  | .error e => e.code

/-- `err_info`: 0 when `err_code` is 0 (60_exceptions.md R192). -/
def errInfoFlag : DecodeOutcome Reading → BitVec 8
  | .reading _ => 0
  | .error e => e.info

/-- `variant`: 0 for an error (10_state.md R35). -/
def variantFlag : DecodeOutcome Reading → BitVec 3
  | .reading r => r.tag
  | .error _ => 0

/-- `eid_valid` (10_state.md Table 10-3). -/
def eidValidFlag (eid : Option Byte) : Bool := eid.isSome

end Sys2Proof.Machine
end

