-- ==== Sys2Proof/Machine/Ops.lean ====
section
/-! DEFINITION. The output mux, driving an outcome, and raising an error: the operations the four meanings share
(10_state.md R28, R33 to R35; 44_dispatch.md R163; 60_exceptions.md R198). -/

namespace Sys2Proof.Machine

/-- The ports with the flags of an outcome and every field bus 0 (10_state.md R34, R35). -/
def flagPorts (o : DecodeOutcome Reading) : OutPorts :=
  { OutPorts.idle with
    outValid := true, ok := okFlag o, errCode := errCodeFlag o, errInfo := errInfoFlag o, variant := variantFlag o }

/-- The field buses of a V2 or V4 reading, over the flags (41_format_2_4.md R109). -/
def drive24 (p : OutPorts) (f : Fields24) : OutPorts :=
  { p with
    humidity := BitVec.ofNat 16 f.humidity
    temperature := BitVec.ofInt 16 f.temperature
    pressure := BitVec.ofNat 17 f.pressure
    eidValid := eidValidFlag f.eddystoneId
    eid := f.eddystoneId.getD 0 }

/-- The field buses of a V3 reading, over the flags (42_format_3.md R129). -/
def drive3 (p : OutPorts) (f : Fields3) : OutPorts :=
  { p with
    humidity := BitVec.ofNat 16 f.humidity
    temperature := BitVec.ofInt 16 f.temperature
    pressure := BitVec.ofNat 17 f.pressure
    accelX := BitVec.ofInt 16 f.accelerationX
    accelY := BitVec.ofInt 16 f.accelerationY
    accelZ := BitVec.ofInt 16 f.accelerationZ
    battery := BitVec.ofNat 16 f.battery }

/-- The field buses of a V5 reading, over the flags (43_format_5.md R153). -/
def drive5 (p : OutPorts) (f : Fields5) : OutPorts :=
  { p with
    temperature := BitVec.ofInt 16 f.temperature
    humidity := BitVec.ofNat 16 f.humidity
    pressure := BitVec.ofNat 17 f.pressure
    accelX := BitVec.ofInt 16 f.accelerationX
    accelY := BitVec.ofInt 16 f.accelerationY
    accelZ := BitVec.ofInt 16 f.accelerationZ
    battery := BitVec.ofNat 16 f.battery
    txPower := BitVec.ofInt 8 f.txPower
    movement := f.movementCounter
    seq := BitVec.ofNat 16 f.measurementSequenceNumber }

/-- The output ports of an outcome (10_state.md R33 to R35; 60_exceptions.md R198). -/
def outcomePorts (o : DecodeOutcome Reading) : OutPorts :=
  match o with
  | .error _ => flagPorts o
  | .reading (.v2 f) => drive24 (flagPorts o) f
  | .reading (.v4 f) => drive24 (flagPorts o) f
  | .reading (.v3 f) => drive3 (flagPorts o) f
  | .reading (.v5 f) => drive5 (flagPorts o) f

/-- The output mux: the idle pattern while no transaction is presented, else the outcome (44_dispatch.md R163;
10_state.md R28, R32). -/
def mux (inValid : Bool) (o : DecodeOutcome Reading) : OutPorts :=
  if inValid then outcomePorts o else OutPorts.idle

/-- Drive an outcome onto the output ports through the mux; nothing else changes (10_state.md R20; 20_memory.md R48). -/
def State.drive (o : DecodeOutcome Reading) (s : State) : State := { s with out := mux s.inp.inValid o }

/-- `raise <Error>(info)`: taking an exception, in the only sense this hardware has. It drives the error ports; it saves
nothing, changes no mode, masks nothing and transfers control nowhere (60_exceptions.md R198). There is no return
operation: the error lasts as long as the host keeps the inputs, and the next outcome replaces it (R201). -/
def State.raise (e : DecodeError) (s : State) : State := s.drive (.error e)

/-- No transaction is presented: the outputs are idle and keep nothing (10_state.md R28; 44_dispatch.md R168). -/
def State.goIdle (s : State) : State := { s with out := OutPorts.idle }

end Sys2Proof.Machine
end

