-- ==== Sys2Proof/Machine/Format24.lean ====
section
/-! DEFINITION. The Format 2/4 decoder: DF2 and DF4 (41_format_2_4.md). -/

namespace Sys2Proof.Machine

/-- The fields of layout L24 (41_format_2_4.md R103 to R106). -/
def fields24 (hum temp : Byte) (press : Half) (eid : Option Byte) : Fields24 :=
  { humidity := hum.toNat, temperature := recoverSigned temp, pressure := pressureOf press, eddystoneId := eid }

/-- `DF2` (41_format_2_4.md R100). -/
def execDf2 (hum temp : Byte) (press : Half) (eid : Option Byte) (s : State) : Host.Outcome State Fault Refusal :=
  .next (s.drive (.reading (.v2 (fields24 hum temp press eid))))

/-- `DF4`: as `DF2` with the result tagged V4 (41_format_2_4.md R101). -/
def execDf4 (hum temp : Byte) (press : Half) (eid : Option Byte) (s : State) : Host.Outcome State Fault Refusal :=
  .next (s.drive (.reading (.v4 (fields24 hum temp press eid))))

end Sys2Proof.Machine
end

