-- ==== Sys2Proof/Machine/Format3.lean ====
section
/-! DEFINITION. The Format 3 decoder: DF3 (42_format_3.md). -/

namespace Sys2Proof.Machine

/-- The fields of layout L3 (42_format_3.md R121 to R125). -/
def fields3 (hum tInt tFrac : Byte) (press ax ay az batt : Half) : Fields3 :=
  { humidity := dec2 hum, temperature := thr128 tInt tFrac, pressure := pressureOf press,
    accelerationX := twosComplement16 ax, accelerationY := twosComplement16 ay, accelerationZ := twosComplement16 az,
    battery := batt.toNat }

/-- `DF3`: a humidity byte that is not two decimal digits raises malformed-encoding (42_format_3.md R120, R131). -/
def execDf3 (hum tInt tFrac : Byte) (press ax ay az batt : Half) (s : State) : Host.Outcome State Fault Refusal :=
  if isDec2 hum then .next (s.drive (.reading (.v3 (fields3 hum tInt tFrac press ax ay az batt))))
  else .next (s.raise (.malformedEncoding hum))

end Sys2Proof.Machine
end

