-- ==== Sys2Proof/Machine/Format5.lean ====
section
/-! DEFINITION. The Format 5 decoder: DF5 (43_format_5.md). -/

namespace Sys2Proof.Machine

/-- The fields of layout L5 (43_format_5.md R141 to R149). -/
def fields5 (temp hum press ax ay az powerInfo : Half) (move : Byte) (seq : Half) : Fields5 :=
  { temperature := df5Temp temp, humidity := hum.toNat, pressure := pressureOf press,
    accelerationX := twosComplement16 ax, accelerationY := twosComplement16 ay, accelerationZ := twosComplement16 az,
    battery := powerBattery powerInfo, txPower := powerTx powerInfo, movementCounter := move,
    measurementSequenceNumber := seq.toNat }

/-- `DF5` (43_format_5.md R140). Every length from 20 to 255 decodes alike (R151), so `len` is no argument. -/
def execDf5 (temp hum press ax ay az powerInfo : Half) (move : Byte) (seq : Half) (s : State) :
    Host.Outcome State Fault Refusal :=
  .next (s.drive (.reading (.v5 (fields5 temp hum press ax ay az powerInfo move seq))))

end Sys2Proof.Machine
end

