-- ==== Sys2Proof/Machine/Dispatch.lean ====
section
/-! DEFINITION. The operation each instruction of the opcode table performs (30_encoding.md R62). -/

namespace Sys2Proof.Machine

def exec (i : Instr) (s : State) : Host.Outcome State Fault Refusal :=
  match i with
  | .df2 hum temp press eid => Sys2Proof.Machine.execDf2 hum temp press eid s
  | .df4 hum temp press eid => Sys2Proof.Machine.execDf4 hum temp press eid s
  | .df3 hum tInt tFrac press ax ay az batt => Sys2Proof.Machine.execDf3 hum tInt tFrac press ax ay az batt s
  | .df5 _ temp hum press ax ay az powerInfo move seq => Sys2Proof.Machine.execDf5 temp hum press ax ay az powerInfo move seq s

end Sys2Proof.Machine
end

