-- ==== Sys2Proof/Machine/HostSide.lean ====
section
/-! DEFINITION. The host: the URL text front end (45_url_front_end.md R180 to R188), the hand-over of bytes to the input
ports (R185; 10_state.md R25), serving the next request, and reading an outcome off the ports (70_reset_and_hazards.md
R222, R225). -/

namespace Sys2Proof.Machine

/-- Step 1: the text contains the marker (45_url_front_end.md R181). -/
def containsText (marker : Text) : Text → Bool
  | [] => marker.isEmpty
  | c :: cs => marker.isPrefixOf (c :: cs) || containsText marker cs

/-- What follows each `#` of a text, in order. -/
def afterHashes : Text → List Text
  | [] => []
  | c :: cs => if c = '#' then cs :: afterHashes cs else afterHashes cs

/-- Step 2: the fragment following `#`, if there is one (45_url_front_end.md R182). With one `#` and something after it
the spec settles it; an empty fragment and several `#` are left open (U12; log 9, log 10). -/
def fragment (c : FrontEndParams) (text : Text) : Option Text :=
  match afterHashes text with
  | [] => none
  | [f] => if f.isEmpty && !c.emptyFragmentCounts text then none else some f
  | _ => c.fragmentOfSeveral text

/-- The pad sequence as text. -/
def padText (c : FrontEndParams) : Text := [c.pad3.1, c.pad3.2.1, c.pad3.2.2]

/-- Step 3: a fragment of exactly 9 characters is padded (45_url_front_end.md R183). -/
def repairFragment (c : FrontEndParams) (f : Text) : Text := if f.length = 9 then f ++ padText c else f

/-- The front end's four steps under given parameters; the first failing check determines the error
(45_url_front_end.md R181 to R184, R186). -/
def frontEndWith (c : FrontEndParams) (text : Text) : Except FrontEndError (List Byte) :=
  if containsText c.hostMarker text then
    match fragment c text with
    | none => .error .malformedUrl
    | some f =>
      match c.b64 (repairFragment c f) with
      | none => .error .malformedEncoding
      | some bytes => .ok bytes
  else .error .notARecognizedUrl

/-- The front end of the host at hand. -/
def frontEnd (text : Text) : Except FrontEndError (List Byte) := frontEndWith Config.frontEnd text

/-- What the host drives on the positions from `a` to `PL_BYTES`, `n` of them: the payload's bytes, and past its end
whatever the host drives there (10_state.md R25; log 7). -/
def presentedFrom (count : Nat) : Nat → Nat → List Byte → List Byte
  | _, 0, _ => []
  | a, n + 1, [] => Config.undrivenByte count a :: presentedFrom count (a + 1) n []
  | a, n + 1, b :: bs => b :: presentedFrom count (a + 1) n bs

/-- The hand-over of a payload: its length, at most 255, and its first 20 bytes (10_state.md R25; 45_url_front_end.md
R185). -/
def handOver (count : Nat) (t : Transport) (bytes : List Byte) : InPorts :=
  { inValid := true, transport := t, len := BitVec.ofNat 8 (min bytes.length Config.lenMax),
    pl := Memory.driveFrom 0 (presentedFrom count 0 Config.plBytes bytes) }

/-- What the host does with the outcome of the step. -/
inductive HostNote where
  /-- No request was served. -/
  | hold
  /-- Sample the output ports (70_reset_and_hazards.md R225). -/
  | sample
  /-- Report a failure of the front end (45_url_front_end.md R186). -/
  | report (e : FrontEndError)
  deriving DecidableEq, Repr

/-- The host's move before the block settles: it serves its next request by driving the input ports. With no request the
inputs stay (60_exceptions.md R201; log 20). When the front end fails the block is not invoked: no transaction is
presented (45_url_front_end.md R186; log 11). -/
def hostMove (s : State) : State × HostNote :=
  match s.pending with
  | [] => (s, .hold)
  | .ports p :: rest => ({ s with inp := p, pending := rest }, .sample)
  | .advertisement bytes :: rest =>
    ({ s with inp := handOver s.results.length .raw bytes, pending := rest }, .sample)
  | .url text :: rest =>
    match frontEnd text with
    | .ok bytes => ({ s with inp := handOver s.results.length .url bytes, pending := rest }, .sample)
    | .error e => ({ s with inp := { s.inp with inValid := false }, pending := rest }, .report e)

/-- The host's record after the block has settled (70_reset_and_hazards.md R225; log 23). -/
def record (n : HostNote) (s : State) : State :=
  match n with
  | .hold => s
  | .sample => { s with results := s.results ++ [.sampled s.out] }
  | .report e => { s with results := s.results ++ [.frontEnd e] }

/-- The reading a consumer takes off the ports, selecting them by `variant` and undoing the scales; signed ports are
sign-extended (10_state.md R33, R34; 40_primitives.md R99). -/
def observedReading (p : OutPorts) : Option Reading :=
  let f24 : Fields24 :=
    { humidity := p.humidity.toNat, temperature := p.temperature.toInt, pressure := p.pressure.toNat,
      eddystoneId := if p.eidValid then some p.eid else none }
  if p.variant = 2 then some (.v2 f24)
  else if p.variant = 4 then some (.v4 f24)
  else if p.variant = 3 then
    some (.v3
      { humidity := p.humidity.toNat, temperature := p.temperature.toInt, pressure := p.pressure.toNat,
        accelerationX := p.accelX.toInt, accelerationY := p.accelY.toInt, accelerationZ := p.accelZ.toInt,
        battery := p.battery.toNat })
  else if p.variant = 5 then
    some (.v5
      { temperature := p.temperature.toInt, humidity := p.humidity.toNat, pressure := p.pressure.toNat,
        accelerationX := p.accelX.toInt, accelerationY := p.accelY.toInt, accelerationZ := p.accelZ.toInt,
        battery := p.battery.toNat, txPower := p.txPower.toInt, movementCounter := p.movement,
        measurementSequenceNumber := p.seq.toNat })
  else none

/-- The error a consumer takes off the ports (60_exceptions.md R191, R192). -/
def observedError (p : OutPorts) : Option DecodeError :=
  if p.errCode = 1 then some (.unsupportedFormat p.errInfo)
  else if p.errCode = 2 then some (.malformedLength p.errInfo)
  else if p.errCode = 3 then some (.malformedEncoding p.errInfo)
  else none

/-- The abstract outcome a consumer takes off the ports: none while `out_valid = 0` (10_state.md R26 to R28). -/
def observe (p : OutPorts) : Option (DecodeOutcome DecodedReading) :=
  if p.outValid then
    if p.ok then (observedReading p).map (fun r => .reading r.value) else (observedError p).map .error
  else none

end Sys2Proof.Machine
end

