-- ==== Sys2Proof/Machine/Block.lean ====
section
/-! DEFINITION. The whole block on its present inputs (44_dispatch.md R163, R166), and one step of block and host. -/

namespace Sys2Proof.Machine

/-- The outputs settle to what the present inputs say: idle, or the selected operation's outcome, or the dispatcher's
error (44_dispatch.md R161 to R163). -/
def settle (s : State) : Host.Outcome State Fault Refusal :=
  if s.inp.inValid then
    match decode s.inp.transport s.inp.len s.inp.pl with
    | .ok i => exec i s
    | .error (.error e) => .next (s.raise e)
    | .error (.illegalRead offset) => .fault (.noSuchOffset offset)
  else .next s.goIdle

/-- Apply a change to the next state of an outcome of a step. -/
def mapNext (f : State → State) : Host.Outcome State Fault Refusal → Host.Outcome State Fault Refusal
  | .next s => .next (f s)
  | .fault r => .fault r
  | .refused r => .refused r

/-- One step: the host serves its next request, the block settles, the host records (44_dispatch.md R164;
70_reset_and_hazards.md R222, R225). -/
def advance (s : State) : Host.Outcome State Fault Refusal :=
  mapNext (record (hostMove s).2) (settle (hostMove s).1)

/-- The input ports that present a transaction written out as bytes. -/
def presentTransaction (x : Transaction) : InPorts :=
  { inValid := true, transport := x.transport, len := x.len, pl := Memory.driveFrom 0 x.bytes }

end Sys2Proof.Machine
end

