-- ==== Sys2Proof/Machine/Step.lean ====
section
/-! DEFINITION. The step, and where the next instruction is fetched from: the first pending request. -/

namespace Sys2Proof.Machine

/-- One step of the machine (44_dispatch.md R163, R164). -/
def step (s : State) : Host.Outcome State Fault Refusal := advance s

/-- The state whose next step presents the transaction of an opcode table word: it is put before the pending requests
(log 3, log 13). -/
def State.withFetchWord (s : State) (nbits w : Nat) : State :=
  { s with pending := .ports (presentTransaction (tableTransaction nbits w)) :: s.pending }

end Sys2Proof.Machine
end

