-- ==== Sys2Proof/Machine/Fixtures.lean ====
section
/-! DEFINITION. The inverses for building fixtures: operands from target field values (41_format_2_4.md R110,
42_format_3.md R130, 43_format_5.md R154). Targets are given at port scale, so that they are integers. -/

namespace Sys2Proof.Machine

/-- The sign-and-magnitude byte of a temperature in -127..127 (41_format_2_4.md R110). -/
def fixtureSigned (t : Int) : Byte := if 0 ≤ t then BitVec.ofInt 8 t else BitVec.ofInt 8 (128 - t)

/-- DF2 for a humidity in half percents, a temperature, a pressure in hundredths and an optional identifier
(41_format_2_4.md R110). -/
def fixtureDf2 (humidity : Nat) (temperature : Int) (pressure : Nat) (eid : Option Byte) : Instr :=
  .df2 (BitVec.ofNat 8 humidity) (fixtureSigned temperature) (BitVec.ofNat 16 (pressure - 50000)) eid

/-- DF4 for the same targets (41_format_2_4.md R110). -/
def fixtureDf4 (humidity : Nat) (temperature : Int) (pressure : Nat) (eid : Option Byte) : Instr :=
  .df4 (BitVec.ofNat 8 humidity) (fixtureSigned temperature) (BitVec.ofNat 16 (pressure - 50000)) eid

/-- The two-digit decimal byte of a number below 100 (42_format_3.md R130). -/
def fixtureDec2 (n : Nat) : Byte := BitVec.ofNat 8 (n / 10 * 16 + n % 10)

/-- The whole-degree byte of a temperature in hundredths (42_format_3.md R130). -/
def fixtureWhole (t : Int) : Byte := if 0 ≤ t then BitVec.ofInt 8 (t / 100) else BitVec.ofInt 8 (128 + -t / 100)

/-- The hundredths byte of a temperature in hundredths (42_format_3.md R130). -/
def fixtureFrac (t : Int) : Byte := if 0 ≤ t then BitVec.ofInt 8 (t % 100) else BitVec.ofInt 8 (-t % 100)

/-- DF3 for a humidity in half percents, a temperature in hundredths, a pressure in pascals, accelerations in milli-g
and a battery in millivolts (42_format_3.md R130). -/
def fixtureDf3 (humidity : Nat) (temperature : Int) (pressure : Nat) (ax ay az : Int) (battery : Nat) : Instr :=
  .df3 (fixtureDec2 humidity) (fixtureWhole temperature) (fixtureFrac temperature) (BitVec.ofNat 16 (pressure - 50000))
    (BitVec.ofInt 16 ax) (BitVec.ofInt 16 ay) (BitVec.ofInt 16 az) (BitVec.ofNat 16 battery)

/-- The raw format 5 temperature of a count of 1/200 degree: `n + 65534` for a negative one (43_format_5.md R154). -/
def fixtureTemp5 (n : Int) : Half := if 0 ≤ n then BitVec.ofInt 16 n else BitVec.ofInt 16 (n + 65534)

/-- The packed power field of a battery in 1600..3647 and an even transmit power in -40..22 (43_format_5.md R154). -/
def fixturePower (battery : Nat) (txPower : Int) : Half :=
  BitVec.ofInt 16 (((battery : Int) - 1600) * 32 + (txPower + 40) / 2)

/-- DF5 for targets at port scale, in the shortest legal length (43_format_5.md R154). -/
def fixtureDf5 (temperature : Int) (humidity pressure : Nat) (ax ay az : Int) (battery : Nat) (txPower : Int)
    (movement : Byte) (seq : Nat) : Instr :=
  .df5 20 (fixtureTemp5 temperature) (BitVec.ofNat 16 humidity) (BitVec.ofNat 16 (pressure - 50000))
    (BitVec.ofInt 16 ax) (BitVec.ofInt 16 ay) (BitVec.ofInt 16 az) (fixturePower battery txPower) movement
    (BitVec.ofNat 16 seq)

end Sys2Proof.Machine
end

