-- ==== Sys2Proof/Machine/Reference.lean ====
section
/-! DEFINITION. `Decode(transport, len, pl)` of 44_dispatch.md R166 over plain integers and rationals: the pseudocode of
R161, R162, R100, R101, R120 and R140 with every primitive written out, independent of the decoder and of the bit-vector
operands of the machine. Statements compare the machine's ports with it. -/

namespace Sys2Proof.Machine

/-- A 16-bit big-endian field (20_memory.md R42). -/
def refBe16 (pl : Nat → Nat) (k : Nat) : Nat := pl k * 256 + pl (k + 1)

/-- The acceleration convention (40_primitives.md R91). -/
def refSigned16 (raw : Nat) : Int := if raw > 32767 then (raw : Int) - 65536 else raw

/-- The L24 temperature convention: a sign flag of weight 128 and a magnitude (40_primitives.md R90). -/
def refSignMagnitude (b : Nat) : Int := if 128 ≤ b then -((b : Int) - 128) else b

/-- The L3 temperature: if the combined value exceeds 128, subtract 128 and negate (40_primitives.md R95). -/
def refThreshold128 (i f : Nat) : Rat :=
  if (i : Rat) + f / 100 > 128 then -((i : Rat) + f / 100 - 128) else (i : Rat) + f / 100

/-- The L5 temperature: subtract 65534 from what exceeds 32767, over 200 (43_format_5.md R141). -/
def refTemperature5 (raw : Nat) : Rat := if raw > 32767 then ((raw : Rat) - 65534) / 200 else (raw : Rat) / 200

/-- `eddystoneId` (41_format_2_4.md R106); absent for every `len` but 7, also where R108 defines nothing (log 26). -/
def refEid (len : Nat) (pl : Nat → Nat) : Option Byte := if len = 7 then some (BitVec.ofNat 8 (pl 6)) else none

/-- `DF2(len, pl)` (41_format_2_4.md R100); for a `len` other than 6 and 7 the model's choice (R108; log 26), which
`refDispatchUrl` never reaches. -/
def refDf2 (len : Nat) (pl : Nat → Nat) : DecodedReading :=
  .v2 (pl 1 / 2) (refSignMagnitude (pl 2)) ((refBe16 pl 4 + 50000) / 100) (refEid len pl)

/-- `DF4(len, pl)` (41_format_2_4.md R101); for a `len` other than 6 and 7 the model's choice (R108; log 26), which
`refDispatchUrl` never reaches. -/
def refDf4 (len : Nat) (pl : Nat → Nat) : DecodedReading :=
  .v4 (pl 1 / 2) (refSignMagnitude (pl 2)) ((refBe16 pl 4 + 50000) / 100) (refEid len pl)

/-- `DF3(pl)` (42_format_3.md R120). -/
def refDf3 (pl : Nat → Nat) : DecodeOutcome DecodedReading :=
  if pl 3 / 16 > 9 ∨ pl 3 % 16 > 9 then .error (.malformedEncoding (BitVec.ofNat 8 (pl 3)))
  else
    .reading (.v3 ((10 * (pl 3 / 16 : Nat) + (pl 3 % 16 : Nat)) / 2) (refThreshold128 (pl 4) (pl 5))
      (refBe16 pl 6 + 50000) (refSigned16 (refBe16 pl 8)) (refSigned16 (refBe16 pl 10)) (refSigned16 (refBe16 pl 12))
      (refBe16 pl 14))

/-- `DF5(pl)` (43_format_5.md R140). -/
def refDf5 (pl : Nat → Nat) : DecodedReading :=
  .v5 (refTemperature5 (refBe16 pl 3)) ((refBe16 pl 5 : Nat) / 400) (refBe16 pl 7 + 50000)
    (refSigned16 (refBe16 pl 9)) (refSigned16 (refBe16 pl 11)) (refSigned16 (refBe16 pl 13))
    (refBe16 pl 15 / 32 + 1600) (((refBe16 pl 15 % 32 : Nat) : Int) * 2 - 40) (BitVec.ofNat 8 (pl 17)) (refBe16 pl 18)

/-- `DispatchURL(len, pl)` (44_dispatch.md R161). -/
def refDispatchUrl (len : Nat) (pl : Nat → Nat) : DecodeOutcome DecodedReading :=
  if len < 6 ∨ len > 7 then .error (.malformedLength (BitVec.ofNat 8 len))
  else if pl 0 = 2 then .reading (refDf2 len pl)
  else if pl 0 = 4 then .reading (refDf4 len pl)
  else .error (.unsupportedFormat (BitVec.ofNat 8 (pl 0)))

/-- `DispatchRAW(len, pl)` (44_dispatch.md R162). -/
def refDispatchRaw (len : Nat) (pl : Nat → Nat) : DecodeOutcome DecodedReading :=
  if len < 3 then .error (.malformedLength (BitVec.ofNat 8 len))
  else if pl 2 = 3 then
    if len ≠ 16 then .error (.malformedLength (BitVec.ofNat 8 len)) else refDf3 pl
  else if pl 2 = 5 then
    if len < 20 then .error (.malformedLength (BitVec.ofNat 8 len)) else .reading (refDf5 pl)
  else .error (.unsupportedFormat (BitVec.ofNat 8 (pl 2)))

/-- `Decode(transport, len, pl)` (44_dispatch.md R166). -/
def refDecode (t : Transport) (len : Nat) (pl : Nat → Nat) : DecodeOutcome DecodedReading :=
  match t with
  | .url => refDispatchUrl len pl
  | .raw => refDispatchRaw len pl

/-- `Decode` of the present inputs. -/
def referenceOutcome (p : InPorts) : DecodeOutcome DecodedReading :=
  refDecode p.transport p.len.toNat (fun k => (p.pl.read k).toNat)

end Sys2Proof.Machine
end

