-- ==== Sys2Proof/Safety.lean ====
section
/-! DEFINITION. What a safe state and a safe step are, in the terms the statements use. -/

namespace Sys2Proof.Machine

/-- The payload on the input ports is in canonical form. -/
def InPorts.Canonical (p : InPorts) : Prop := Memory.wf p.pl = true

/-- A request to drive the ports drives a payload in canonical form. -/
def HostRequest.Canonical (r : HostRequest) : Prop :=
  match r with
  | .ports p => p.Canonical
  | .advertisement _ => True
  | .url _ => True

/-- Every payload a state holds is in canonical form. -/
def State.Canonical (s : State) : Prop := s.inp.Canonical ∧ ∀ r ∈ s.pending, r.Canonical

/-- The field buses of Table 10-3, in port order: all 0. -/
def OutPorts.NoFields (p : OutPorts) : Prop :=
  p.humidity = 0 ∧ p.temperature = 0 ∧ p.pressure = 0 ∧ p.accelX = 0 ∧ p.accelY = 0 ∧ p.accelZ = 0 ∧ p.battery = 0 ∧
    p.txPower = 0 ∧ p.movement = 0 ∧ p.seq = 0 ∧ p.eidValid = false ∧ p.eid = 0

/-- The fields a reading's variant does not carry are 0 (10_state.md R34). -/
def OutPorts.AbsentFieldsZero (p : OutPorts) : Prop :=
  ((p.variant = 2 ∨ p.variant = 4) →
    p.accelX = 0 ∧ p.accelY = 0 ∧ p.accelZ = 0 ∧ p.battery = 0 ∧ p.txPower = 0 ∧ p.movement = 0 ∧ p.seq = 0) ∧
  (p.variant = 3 → p.txPower = 0 ∧ p.movement = 0 ∧ p.seq = 0) ∧
  ((p.variant = 3 ∨ p.variant = 5) → p.eidValid = false) ∧
  (p.eidValid = false → p.eid = 0)

/-- A settled output pattern is the idle one, a complete reading, or an error that exposes no field (10_state.md R26,
R28, R34 to R36; 60_exceptions.md R191, R192, R198). -/
def OutPorts.Legal (p : OutPorts) : Prop :=
  p = OutPorts.idle ∨
  (p.outValid = true ∧ p.ok = true ∧ p.errCode = 0 ∧ p.errInfo = 0 ∧
    (p.variant = 2 ∨ p.variant = 3 ∨ p.variant = 4 ∨ p.variant = 5) ∧ p.AbsentFieldsZero) ∨
  (p.outValid = true ∧ p.ok = false ∧ (p.errCode = 1 ∨ p.errCode = 2 ∨ p.errCode = 3) ∧ p.variant = 0 ∧ p.NoFields)

/-- The outputs `o` are what the inputs `p` say: idle while no transaction is presented, else the ports from which a
consumer reads exactly `Decode` of the inputs (10_state.md R20, R28, R32; 44_dispatch.md R163, R166). -/
def PortsSettled (p : InPorts) (o : OutPorts) : Prop :=
  (p.inValid = false → o = OutPorts.idle) ∧
  (p.inValid = true → o.Legal ∧ observe o = some (referenceOutcome p))

/-- The outputs of a state are what its inputs say. -/
def State.Settled (s : State) : Prop := PortsSettled s.inp s.out

/-- The invariant of every step: payloads canonical, outputs settled. -/
def State.Inv (s : State) : Prop := s.Canonical ∧ s.Settled

/-- A step that goes on: it answers a next state, never a fault or a refusal. -/
def Continues (s : State) : Prop := ∃ t, step s = .next t

/-- Two input assignments present the same: the same `in_valid`, and, while a transaction is presented, the same
transport, length and bytes at the offsets that exist and are presented (00_scope.md R6). -/
def SamePresentation (p q : InPorts) : Prop :=
  p.inValid = q.inValid ∧
  (p.inValid = true →
    p.transport = q.transport ∧ p.len = q.len ∧
      ∀ k, k < p.len.toNat → k < Config.plBytes → p.pl.read k = q.pl.read k)

end Sys2Proof.Machine
end

