-- ==== Sys2Proof/Certificates/Slice0/Obligations.lean ====
section
/-! DEFINITION. The statements for the provers. Each docstring names the rules of spec/ it formalises, or says that it
rests on a choice of the model and names its log entry. -/

open Sys2Proof Sys2Proof.Machine

/-! ### Encoding and dispatch -/

/-- Decode and encode agree: every well-formed instruction, with every operand at every value its encoding admits, is
read back from its own words (Tables 30-2 to 30-4 of R63 to R65; R62, R73). -/
def Obligations.DecodeInvertsEncode : Prop :=
  ∀ i : Instr, WellFormed i = true → decodeTransaction (encode i) = .ok i

/-- What the decoder accepts is well formed. -/
def Obligations.DecodedInstructionsAreWellFormed : Prop :=
  ∀ (t : Transport) (len : Len) (pl : Memory) (i : Instr), decode t len pl = .ok i → WellFormed i = true

/-- R62 and Table 30-1: a transaction selects an operation exactly when its length is legal under its dispatch key, and
the operation it selects is the one of that key. -/
def Obligations.OperationIsSelectedByKeyAndLength : Prop :=
  ∀ (t : Transport) (len : Len) (pl : Memory),
    ((∃ i, decode t len pl = .ok i) ↔ legalLength (dispatchKey t (pl.read (idOffset t))) len.toNat = true) ∧
    ∀ i, decode t len pl = .ok i → keyOf i = dispatchKey t (pl.read (idOffset t))

/-- Encoding what was decoded gives back the transport, the length and every byte the layout reads: all presented offsets
but 3 of L24 and 0 and 1 of L3 and L5 (R63 to R65, R72). -/
def Obligations.EncodeGivesBackEveryByteRead : Prop :=
  ∀ (t : Transport) (len : Len) (pl : Memory) (i : Instr), decode t len pl = .ok i →
    (encode i).transport = t ∧ (encode i).len = len ∧
    ∀ k, k < len.toNat → k < 20 → (t = .url → k ≠ 3) → (t = .raw → k ≠ 0 ∧ k ≠ 1) →
      (encode i).bytes[k]? = some (pl.read k)

/-- Bytes that no layout reads do not influence the decoding (inferred from R72, R167): two payloads that agree at every
other offset below 20 and below `len` decode to the same instruction or the same rejection, whatever stands at offset 3 of
a URL payload and at offsets 0 and 1 of a RAW payload. UnreadBytesDoNotReachTheOutputs says it of the outcome. -/
def Obligations.UnreadBytesDoNotMatter : Prop :=
  ∀ (t : Transport) (len : Len) (pl pl' : Memory),
    (∀ k, k < len.toNat → k < 20 → (t = .url → k ≠ 3) → (t = .raw → k ≠ 0 ∧ k ≠ 1) → pl.read k = pl'.read k) →
    decode t len pl = decode t len pl'

/-- A few words written out from the encodings decode to the instructions they stand for (Tables 30-2 to 30-4). -/
def Obligations.SampleWordsDecode : Prop :=
  decodeTransaction ⟨.url, 6, [0x02, 0x51, 0x17, 0x00, 0xC3, 0x50]⟩ = .ok (.df2 0x51 0x17 0xC350 none) ∧
  decodeTransaction ⟨.url, 7, [0x04, 0x80, 0x80, 0x80, 0x80, 0x96, 0x82]⟩ = .ok (.df4 0x80 0x80 0x8096 (some 0x82)) ∧
  decodeTransaction ⟨.raw, 16,
      [0x99, 0x04, 0x03, 0x29, 0x1A, 0x1E, 0xCE, 0x1E, 0xFC, 0x18, 0xF9, 0x42, 0x02, 0xCA, 0x0B, 0x53]⟩ =
    .ok (.df3 0x29 0x1A 0x1E 0xCE1E 0xFC18 0xF942 0x02CA 0x0B53) ∧
  decodeTransaction ⟨.raw, 26,
      [0x99, 0x04, 0x05, 0x12, 0xFC, 0x53, 0x94, 0xC3, 0x7C, 0x00, 0x04, 0xFF, 0xFC, 0x04, 0x0C, 0xAC, 0x36, 0x42, 0x00,
        0xCD]⟩ =
    .ok (.df5 26 0x12FC 0x5394 0xC37C 0x0004 0xFFFC 0x040C 0xAC36 0x42 0x00CD)

/-! ### The four operations -/

/-- DF2 completes while a transaction is presented: a consumer reads off the ports the V2 reading of R100's pseudocode
(humidity, sign-and-magnitude temperature, pressure, optional identifier), and nothing but the output ports changes (the
host's pending requests and results are the model's own fields, log 4). -/
def Obligations.Df2YieldsItsReading : Prop :=
  ∀ (hum temp : Byte) (press : Half) (eid : Option Byte) (s : State), s.inp.inValid = true →
    ∃ t, exec (.df2 hum temp press eid) s = .next t ∧
      t.inp = s.inp ∧ t.pending = s.pending ∧ t.results = s.results ∧ t.out.outValid = true ∧ t.out.Legal ∧
      observe t.out = some (.reading (.v2 ((hum.toNat : Rat) / 2)
        (if 128 ≤ temp.toNat then -((temp.toNat : Int) - 128) else temp.toNat)
        (((press.toNat : Rat) + 50000) / 100) eid))

/-- DF4 completes while a transaction is presented: as DF2, with the reading tagged V4 (R101; log 4). -/
def Obligations.Df4YieldsItsReading : Prop :=
  ∀ (hum temp : Byte) (press : Half) (eid : Option Byte) (s : State), s.inp.inValid = true →
    ∃ t, exec (.df4 hum temp press eid) s = .next t ∧
      t.inp = s.inp ∧ t.pending = s.pending ∧ t.results = s.results ∧ t.out.outValid = true ∧ t.out.Legal ∧
      observe t.out = some (.reading (.v4 ((hum.toNat : Rat) / 2)
        (if 128 ≤ temp.toNat then -((temp.toNat : Int) - 128) else temp.toNat)
        (((press.toNat : Rat) + 50000) / 100) eid))

/-- DF3 completes while a transaction is presented and both humidity nibbles are decimal digits: a consumer reads the V3
reading of R120's pseudocode, the temperature by the threshold on the combined value in exact rationals, and nothing but
the output ports changes (log 4 as for DF2). -/
def Obligations.Df3YieldsItsReading : Prop :=
  ∀ (hum tInt tFrac : Byte) (press ax ay az batt : Half) (s : State), s.inp.inValid = true →
    hum.toNat / 16 ≤ 9 → hum.toNat % 16 ≤ 9 →
    ∃ t, exec (.df3 hum tInt tFrac press ax ay az batt) s = .next t ∧
      t.inp = s.inp ∧ t.pending = s.pending ∧ t.results = s.results ∧ t.out.outValid = true ∧ t.out.Legal ∧
      observe t.out = some (.reading (.v3 (((10 * (hum.toNat / 16) + hum.toNat % 16 : Nat) : Rat) / 2)
        (refThreshold128 tInt.toNat tFrac.toNat) (press.toNat + 50000) ax.toInt ay.toInt az.toInt batt.toNat))

/-- DF3 on a humidity byte that is not two decimal digits raises malformed-encoding with that byte, exposes no field and
changes nothing but the output ports (R131, R198). -/
def Obligations.Df3RaisesMalformedEncoding : Prop :=
  ∀ (hum tInt tFrac : Byte) (press ax ay az batt : Half) (s : State), s.inp.inValid = true →
    (9 < hum.toNat / 16 ∨ 9 < hum.toNat % 16) →
    exec (.df3 hum tInt tFrac press ax ay az batt) s =
      .next { s with out := { OutPorts.idle with outValid := true, errCode := 3, errInfo := hum } }

/-- DF5 completes while a transaction is presented: a consumer reads the V5 reading of R140's pseudocode, with the
constant 65534 for the temperature and the split of the packed power field at bit 5, and nothing but the output ports
changes (log 4 as for DF2). -/
def Obligations.Df5YieldsItsReading : Prop :=
  ∀ (len : Len) (temp hum press ax ay az powerInfo : Half) (move : Byte) (seq : Half) (s : State), s.inp.inValid = true →
    ∃ t, exec (.df5 len temp hum press ax ay az powerInfo move seq) s = .next t ∧
      t.inp = s.inp ∧ t.pending = s.pending ∧ t.results = s.results ∧ t.out.outValid = true ∧ t.out.Legal ∧
      observe t.out = some (.reading (.v5 (refTemperature5 temp.toNat) ((hum.toNat : Rat) / 400) (press.toNat + 50000)
        ax.toInt ay.toInt az.toInt (powerInfo.toNat / 32 + 1600) (((powerInfo.toNat % 32 : Nat) : Int) * 2 - 40) move
        seq.toNat))

/-- R109: what the ports are for a DF2 or DF4 outcome, in terms of the payload. -/
def Obligations.Format24Ports : Prop :=
  ∀ s : State, s.inp.inValid = true → s.inp.transport = .url → (s.inp.len = 6 ∨ s.inp.len = 7) →
    (s.inp.pl.read 0 = 2 ∨ s.inp.pl.read 0 = 4) →
    ∃ t, settle s = .next t ∧ t.out.outValid = true ∧ t.out.ok = true ∧ t.out.errCode = 0 ∧ t.out.errInfo = 0 ∧
      t.out.variant.toNat = (s.inp.pl.read 0).toNat ∧ t.out.humidity.toNat = (s.inp.pl.read 1).toNat ∧
      t.out.temperature.toInt = recoverSigned (s.inp.pl.read 2) ∧
      t.out.pressure.toNat = (s.inp.pl.read 4).toNat * 256 + (s.inp.pl.read 5).toNat + 50000 ∧
      t.out.eidValid = decide (s.inp.len = 7) ∧ t.out.eid = (if s.inp.len = 7 then s.inp.pl.read 6 else 0) ∧
      t.out.accelX = 0 ∧ t.out.accelY = 0 ∧ t.out.accelZ = 0 ∧ t.out.battery = 0 ∧ t.out.txPower = 0 ∧
      t.out.movement = 0 ∧ t.out.seq = 0

/-- R129: what the ports are for a DF3 outcome, in terms of the payload. -/
def Obligations.Format3Ports : Prop :=
  ∀ s : State, s.inp.inValid = true → s.inp.transport = .raw → s.inp.len = 16 → s.inp.pl.read 2 = 3 →
    isDec2 (s.inp.pl.read 3) = true →
    ∃ t, settle s = .next t ∧ t.out.outValid = true ∧ t.out.ok = true ∧ t.out.errCode = 0 ∧ t.out.errInfo = 0 ∧
      t.out.variant = 3 ∧ t.out.humidity.toNat = dec2 (s.inp.pl.read 3) ∧
      t.out.temperature.toInt = thr128 (s.inp.pl.read 4) (s.inp.pl.read 5) ∧
      t.out.pressure.toNat = (s.inp.pl.read16 6).toNat + 50000 ∧
      t.out.accelX = s.inp.pl.read16 8 ∧ t.out.accelY = s.inp.pl.read16 10 ∧ t.out.accelZ = s.inp.pl.read16 12 ∧
      t.out.battery = s.inp.pl.read16 14 ∧ t.out.txPower = 0 ∧ t.out.movement = 0 ∧ t.out.seq = 0 ∧
      t.out.eid = 0 ∧ t.out.eidValid = false

/-- R153: what the ports are for a DF5 outcome, in terms of the payload. -/
def Obligations.Format5Ports : Prop :=
  ∀ s : State, s.inp.inValid = true → s.inp.transport = .raw → 20 ≤ s.inp.len.toNat → s.inp.pl.read 2 = 5 →
    ∃ t, settle s = .next t ∧ t.out.outValid = true ∧ t.out.ok = true ∧ t.out.errCode = 0 ∧ t.out.errInfo = 0 ∧
      t.out.variant = 5 ∧ t.out.temperature.toInt = df5Temp (s.inp.pl.read16 3) ∧ t.out.humidity = s.inp.pl.read16 5 ∧
      t.out.pressure.toNat = (s.inp.pl.read16 7).toNat + 50000 ∧
      t.out.accelX = s.inp.pl.read16 9 ∧ t.out.accelY = s.inp.pl.read16 11 ∧ t.out.accelZ = s.inp.pl.read16 13 ∧
      t.out.battery.toNat = (s.inp.pl.read16 15).toNat / 32 + 1600 ∧
      t.out.txPower.toInt = ((s.inp.pl.read16 15).toNat % 32 : Int) * 2 - 40 ∧
      t.out.movement = s.inp.pl.read 17 ∧ t.out.seq = s.inp.pl.read16 18 ∧ t.out.eidValid = false ∧ t.out.eid = 0

/-- The frame of all four operations, wherever they answer a next state: the input ports, every byte of the payload, the
pending requests and the host's results are unchanged (R20, R40, R48; the last two are the model's own fields, log 4). An
operation applied while no transaction is presented leaves the outputs idle (log 14, DEDUCED from R28 and R163). -/
def Obligations.OperationsChangeOnlyTheOutputs : Prop :=
  ∀ (i : Instr) (s t : State), exec i s = .next t →
    t.inp = s.inp ∧ (∀ k, t.inp.pl.read k = s.inp.pl.read k) ∧ t.pending = s.pending ∧ t.results = s.results ∧
    (s.inp.inValid = false → t.out = OutPorts.idle)

/-! ### Errors -/

/-- R161, R194, R197: on the URL transport a length other than 6 or 7 is malformed-length, whatever the identifier. -/
def Obligations.UrlLengthIsTestedFirst : Prop :=
  ∀ s : State, s.inp.inValid = true → s.inp.transport = .url → (s.inp.len.toNat < 6 ∨ 7 < s.inp.len.toNat) →
    settle s = .next { s with out := { OutPorts.idle with outValid := true, errCode := 2, errInfo := s.inp.len } }

/-- R193 on the URL transport: with a legal length, an identifier other than 2 and 4 is unsupported-format. -/
def Obligations.UrlIdentifierUnsupported : Prop :=
  ∀ s : State, s.inp.inValid = true → s.inp.transport = .url → 6 ≤ s.inp.len.toNat → s.inp.len.toNat ≤ 7 →
    s.inp.pl.read 0 ≠ 2 → s.inp.pl.read 0 ≠ 4 →
    settle s =
      .next { s with out := { OutPorts.idle with outValid := true, errCode := 1, errInfo := s.inp.pl.read 0 } }

/-- R162, R193, R194, R195, R197: the errors of the RAW transport, in the order of their priority. -/
def Obligations.RawErrorsInOrder : Prop :=
  ∀ s : State, s.inp.inValid = true → s.inp.transport = .raw →
    (s.inp.len.toNat < 3 →
      settle s = .next { s with out := { OutPorts.idle with outValid := true, errCode := 2, errInfo := s.inp.len } }) ∧
    (3 ≤ s.inp.len.toNat → s.inp.pl.read 2 ≠ 3 → s.inp.pl.read 2 ≠ 5 →
      settle s =
        .next { s with out := { OutPorts.idle with outValid := true, errCode := 1, errInfo := s.inp.pl.read 2 } }) ∧
    (3 ≤ s.inp.len.toNat →
      ((s.inp.pl.read 2 = 3 ∧ s.inp.len.toNat ≠ 16) ∨ (s.inp.pl.read 2 = 5 ∧ s.inp.len.toNat < 20)) →
      settle s = .next { s with out := { OutPorts.idle with outValid := true, errCode := 2, errInfo := s.inp.len } }) ∧
    (s.inp.len.toNat = 16 → s.inp.pl.read 2 = 3 → isDec2 (s.inp.pl.read 3) = false →
      settle s =
        .next { s with out := { OutPorts.idle with outValid := true, errCode := 3, errInfo := s.inp.pl.read 3 } })

/-- R195: the block reports malformed-encoding in one case only, a format 3 payload of length 16 whose humidity byte has
a nibble above 9, and it records that byte; the only other cause is a failure of `B64` in the front end. -/
def Obligations.MalformedEncodingCauses : Prop :=
  (∀ s t : State, settle s = .next t →
    (t.out.errCode = 3 ↔
      s.inp.inValid = true ∧ s.inp.transport = .raw ∧ s.inp.len = 16 ∧ s.inp.pl.read 2 = 3 ∧
        (9 < (s.inp.pl.read 3).toNat / 16 ∨ 9 < (s.inp.pl.read 3).toNat % 16)) ∧
    (t.out.errCode = 3 → t.out.errInfo = s.inp.pl.read 3)) ∧
  ∀ (c : FrontEndParams) (text : Text),
    frontEndWith c text = .error .malformedEncoding ↔
      containsText c.hostMarker text = true ∧
        ∃ f, fragment c text = some f ∧ c.b64 (repairFragment c f) = none

/-- R193: unsupported-format is reported exactly when the identifier at the transport's offset is not one of the
transport's values (and, on the URL transport, the length is 6 or 7; on the RAW transport, at least 3), and it records
the identifier. -/
def Obligations.UnsupportedFormatCauses : Prop :=
  ∀ s t : State, settle s = .next t →
    (t.out.errCode = 1 ↔
      s.inp.inValid = true ∧
        ((s.inp.transport = .url ∧ 6 ≤ s.inp.len.toNat ∧ s.inp.len.toNat ≤ 7 ∧ s.inp.pl.read 0 ≠ 2 ∧ s.inp.pl.read 0 ≠ 4) ∨
         (s.inp.transport = .raw ∧ 3 ≤ s.inp.len.toNat ∧ s.inp.pl.read 2 ≠ 3 ∧ s.inp.pl.read 2 ≠ 5))) ∧
    (t.out.errCode = 1 → t.out.errInfo = s.inp.pl.read (idOffset s.inp.transport))

/-- R194: malformed-length is reported exactly when the length violates the constraint of the path, and it records
`len`. -/
def Obligations.MalformedLengthCauses : Prop :=
  ∀ s t : State, settle s = .next t →
    (t.out.errCode = 2 ↔
      s.inp.inValid = true ∧
        ((s.inp.transport = .url ∧ (s.inp.len.toNat < 6 ∨ 7 < s.inp.len.toNat)) ∨
         (s.inp.transport = .raw ∧
          (s.inp.len.toNat < 3 ∨ (s.inp.pl.read 2 = 3 ∧ s.inp.len.toNat ≠ 16) ∨
            (s.inp.pl.read 2 = 5 ∧ s.inp.len.toNat < 20))))) ∧
    (t.out.errCode = 2 → t.out.errInfo = s.inp.len)

/-- R34: after every step a field that the variant does not carry is 0 on its port, and `eid` is 0 while
`eid_valid = 0`. -/
def Obligations.AbsentFieldsAreZero : Prop :=
  ∀ s t : State, step s = .next t → t.out.AbsentFieldsZero

/-- R36: while `out_valid = 1`, `ok` is 1 exactly when `err_code` is 0, and exactly when `variant` is 2, 3, 4 or 5. -/
def Obligations.OkAgreesWithCodeAndVariant : Prop :=
  ∀ s t : State, step s = .next t → t.out.outValid = true →
    (t.out.ok = true ↔ t.out.errCode = 0) ∧
    (t.out.ok = true ↔ t.out.variant = 2 ∨ t.out.variant = 3 ∨ t.out.variant = 4 ∨ t.out.variant = 5)

/-- R35: an error outcome shows no field: `ok`, `variant`, `eid_valid` and every field bus are 0. -/
def Obligations.ErrorsExposeNoField : Prop :=
  ∀ s t : State, step s = .next t → t.out.errCode ≠ 0 →
    t.out.outValid = true ∧ t.out.ok = false ∧ t.out.variant = 0 ∧ t.out.NoFields

/-! ### Idle, purity, independence -/

/-- R32: after every step `out_valid` equals `in_valid`. -/
def Obligations.OutValidFollowsInValid : Prop :=
  ∀ s t : State, step s = .next t → t.out.outValid = t.inp.inValid

/-- R28: with `in_valid = 0` the outputs are the idle pattern, every port 0, whatever the other inputs are; the pattern
differs from the ports of every outcome. -/
def Obligations.IdleInputsGiveIdleOutputs : Prop :=
  (∀ s : State, s.inp.inValid = false →
    ∃ t, settle s = .next t ∧ t.out.outValid = false ∧ t.out.ok = false ∧ t.out.errCode = 0 ∧ t.out.errInfo = 0 ∧
      t.out.variant = 0 ∧ t.out.NoFields) ∧
  ∀ (s : State) (o : DecodeOutcome Reading), s.inp.inValid = false → settle s ≠ .next { s with out := outcomePorts o }

/-- R6: the outputs depend on `transport`, `len` and the bytes `pl[0]` .. `pl[min(len, 20) - 1]` and on nothing else: not
on what was on the outputs, pending or sampled before, and not on bytes at offsets at or past `len`. -/
def Obligations.OutcomeIsAFunctionOfTheInputs : Prop :=
  ∀ s s' t t' : State, SamePresentation s.inp s'.inp → settle s = .next t → settle s' = .next t' → t.out = t'.out

/-- R7: decoding is deterministic and idempotent: settling what has settled changes nothing, and the same inputs give
the same outputs whatever was there before. -/
def Obligations.RepeatedDecodingIsIdentical : Prop :=
  ∀ s t : State, settle s = .next t →
    settle t = .next t ∧ ∀ s' t' : State, s'.inp = s.inp → settle s' = .next t' → t'.out = t.out

/-- R164: an outcome does not depend on what came before it: two states whose next request drives the same inputs append
the same sampled ports to what the host holds, however else they differ (the queue and its results are log 4's choice, one
sample per request log 23's). -/
def Obligations.TransactionsAreIndependent : Prop :=
  ∀ (s s' t t' : State) (p : InPorts) (rest rest' : List HostRequest),
    s.pending = .ports p :: rest → s'.pending = .ports p :: rest' → step s = .next t → step s' = .next t' →
    ∃ o, PortsSettled p o ∧ t.results = s.results ++ [.sampled o] ∧ t'.results = s'.results ++ [.sampled o] ∧
      t.pending = rest ∧ t'.pending = rest'

/-- R164: a sequence of presentations, of any length and from any state, yields the sequence of their individual
outcomes, in order (the queue and its results are log 4's choice, one sample per request log 23's). -/
def Obligations.SequencesYieldTheirOutcomesInOrder : Prop :=
  ∀ (ps : List InPorts) (s : State), s.pending = ps.map .ports →
    ∃ t outs, Host.Core.run Sys2Proof.core ps.length s = .next t ∧ t.pending = [] ∧
      t.results = s.results ++ outs.map .sampled ∧ List.Forall₂ PortsSettled ps outs

/-! ### The step and its invariants -/

/-- A step runs the decoded instruction: when the inputs after the host's move present a transaction that decodes to `i`,
the step is the operation `i` at that state, followed by the host's record (R163, R166; log 4, log 23). -/
def Obligations.StepRunsTheDecodedInstruction : Prop :=
  ∀ (s : State) (i : Instr), (hostMove s).1.inp.inValid = true →
    decode (hostMove s).1.inp.transport (hostMove s).1.inp.len (hostMove s).1.inp.pl = .ok i →
    step s = mapNext (record (hostMove s).2) (exec i (hostMove s).1)

/-- A word of the opcode table, put where the step fetches next, is the instruction the next step runs, from every state
(R61, R62; that it is placed in the host's queue is log 3's and log 4's choice, how the rest of its transaction is filled
log 13's, that its outcome is sampled once log 23's). -/
def Obligations.TableWordIsFetchedAndRun : Prop :=
  ∀ (s : State) (nbits w : Nat) (i : Instr), decodeTableWord nbits w = some i →
    step (s.withFetchWord nbits w) =
      mapNext (record .sample) (exec i { s with inp := presentTransaction (tableTransaction nbits w) })

/-- R46, R166: no step reads a byte that does not exist: every step, from every state, answers a next state (also where
the front end meets an empty fragment or several `#`, which it settles by a free value: log 9, log 10). -/
def Obligations.EveryStepContinues : Prop := ∀ s : State, Continues s

/-- Every step keeps the payloads canonical and leaves outputs that are exactly what the inputs say, by the reference
transcription of `Decode` over integers and rationals (R20, R28, R163, R166; the canonical form is log 5's choice, the
queue whose payloads it covers log 4's). -/
def Obligations.StepKeepsPayloadsCanonicalAndOutputsSettled : Prop :=
  ∀ s t : State, s.Inv → step s = .next t → t.Inv

/-- The same holds right after reset: idle inputs, idle outputs, a canonical payload (R28, R220, R221; that the payload is
all 0 is log 2's choice, the canonical form log 5's). -/
def Obligations.ResetIsCanonicalAndSettled : Prop := State.reset.Inv

/-- After a step the outputs are settled, whatever they were before (R20, R163). -/
def Obligations.OutputsSettleFromAnyState : Prop :=
  ∀ s t : State, step s = .next t → t.Settled

/-- With no request pending a step changes nothing once the outputs are settled: the outcome lasts as long as the host
keeps the inputs (R201; that the host then holds its inputs is log 20's reading, its queue and results are log 4's
choice). -/
def Obligations.OutcomeLastsWhileTheInputsHold : Prop :=
  ∀ s t : State, s.pending = [] → step s = .next t →
    t.inp = s.inp ∧ t.pending = [] ∧ t.results = s.results ∧ step t = .next t

/-- The canonical form is canonical: two canonical payloads that read alike everywhere are equal data (log 5). -/
def Obligations.CanonicalPayloadsAreEqualData : Prop :=
  ∀ m m' : Memory, m.wf = true → m'.wf = true → (∀ k, m.read k = m'.read k) → m = m'

/-! ### The primitives -/

/-- R90: `recoverSigned` negates the low 7 bits when the high bit is set; it lies in -127..127, and 0x00 and 0x80 are the
two bytes it maps to 0. -/
def Obligations.RecoverSignedRule : Prop :=
  ∀ b : Byte,
    recoverSigned b = (if b.toNat ≥ 128 then -((b.toNat : Int) - 128) else b.toNat) ∧
    -127 ≤ recoverSigned b ∧ recoverSigned b ≤ 127 ∧ (recoverSigned b = 0 ↔ b = 0x00 ∨ b = 0x80)

/-- R91: `twosComplement16` subtracts 65536 from what exceeds 32767, equals the sign extension of the 16-bit pattern, and
is a bijection between the patterns and -32768..32767. -/
def Obligations.TwosComplementRule : Prop :=
  (∀ raw : Half, twosComplement16 raw = (if raw.toNat > 32767 then (raw.toNat : Int) - 65536 else raw.toNat) ∧
    twosComplement16 raw = raw.toInt) ∧
  (∀ raw raw' : Half, twosComplement16 raw = twosComplement16 raw' → raw = raw') ∧
  (∀ v : Int, (∃ raw : Half, twosComplement16 raw = v) ↔ -32768 ≤ v ∧ v ≤ 32767)

/-- R94: `df5Temp` subtracts 65534 from what exceeds 32767; there it is 2 above the two's complement reading; its values
are exactly -32766..32767; 0 and 1 have the second preimages 65534 and 65535. -/
def Obligations.Df5TemperatureRule : Prop :=
  (∀ raw : Half, df5Temp raw = (if raw.toNat > 32767 then (raw.toNat : Int) - 65534 else raw.toNat) ∧
    (raw.toNat > 32767 → df5Temp raw = twosComplement16 raw + 2)) ∧
  (∀ v : Int, (∃ raw : Half, df5Temp raw = v) ↔ -32766 ≤ v ∧ v ≤ 32767) ∧
  (∀ raw : Half, (df5Temp raw = 0 ↔ raw = 0 ∨ raw = 65534) ∧ (df5Temp raw = 1 ↔ raw = 1 ∨ raw = 65535))

/-- R95: `thr128` in hundredths is DOC00's rule over exact rationals (combine, and if the combined value exceeds 128,
subtract 128 and negate), so rounding to two decimals changes nothing; its two arms have the ranges 0..12800 and
-12955..-1. -/
def Obligations.ThresholdTemperatureRule : Prop :=
  ∀ i f : Byte,
    ((thr128 i f : Int) : Rat) / 100 =
      (if (i.toNat : Rat) + (f.toNat : Rat) / 100 > 128 then -((i.toNat : Rat) + (f.toNat : Rat) / 100 - 128)
       else (i.toNat : Rat) + (f.toNat : Rat) / 100) ∧
    ((0 ≤ thr128 i f ∧ thr128 i f ≤ 12800) ∨ (-12955 ≤ thr128 i f ∧ thr128 i f ≤ -1))

/-- R122: the threshold reading and a sign-bit reading of the format 3 temperature differ exactly at (128, 0), at
(126, 201) and up, and at (127, 101) and up. -/
def Obligations.ThresholdDiffersFromASignBit : Prop :=
  ∀ i f : Byte,
    (thr128 i f ≠
      (if i.toNat ≥ 128 then -(100 * ((i.toNat : Int) - 128) + f.toNat) else 100 * (i.toNat : Int) + f.toNat)) ↔
    (i = 128 ∧ f = 0) ∨ (i = 126 ∧ 201 ≤ f.toNat) ∨ (i = 127 ∧ 101 ≤ f.toNat)

/-- R93, R131: `dec2` of a byte with two decimal nibbles is 10 times the high one plus the low one, 0..99, and every
number below 100 is reached by exactly one such byte; 156 of the 256 byte values are outside its domain. -/
def Obligations.DecimalPairRule : Prop :=
  (∀ b : Byte, isDec2 b = true → dec2 b = 10 * (b.toNat / 16) + b.toNat % 16 ∧ dec2 b ≤ 99) ∧
  (∀ n, n < 100 → ∃! b : Byte, isDec2 b = true ∧ dec2 b = n) ∧
  ((List.range 256).filter (fun n => !isDec2 (BitVec.ofNat 8 n))).length = 156

/-- The packed power field (R70, R146, R147): the 11 high bits give the battery, in 1600..3647, the 5 low bits the transmit
power, even and in -40..22; in payload bytes, which R70 derives, the high bits are the first byte times 8 plus the top
three bits of the second, the low bits the rest of the second. -/
def Obligations.PackedPowerRule : Prop :=
  ∀ (m : Memory) (k : Nat),
    powerBattery (m.read16 k) = (m.read16 k).toNat / 32 + 1600 ∧
    powerTx (m.read16 k) = (((m.read16 k).toNat % 32 : Nat) : Int) * 2 - 40 ∧
    powerBattery (m.read16 k) = (m.read k).toNat * 8 + (m.read (k + 1)).toNat / 32 + 1600 ∧
    powerTx (m.read16 k) = (((m.read (k + 1)).toNat % 32 : Nat) : Int) * 2 - 40 ∧
    1600 ≤ powerBattery (m.read16 k) ∧ powerBattery (m.read16 k) ≤ 3647 ∧
    -40 ≤ powerTx (m.read16 k) ∧ powerTx (m.read16 k) ≤ 22 ∧ powerTx (m.read16 k) % 2 = 0

/-- R56, R132: DOC00's digit-string view of a payload agrees with the byte view: a 16-bit hex value is the big-endian
field, and a digit pair read as decimal is `dec2` of the byte. On a pair with a digit above 9 both are the free value of
log 25 (DESIGN CHOICE: R93 leaves it open), so the second equation says there only that one value serves both views. -/
def Obligations.HexDigitViewAgreesWithBytes : Prop :=
  ∀ (m : Memory) (k : Nat), hexValue16 m k = (m.read16 k).toNat ∧ decimalPair m k = dec2 (m.read k)

/-- R99: the port pattern of an acceleration is the raw field; that of a format 5 temperature is the raw field up to
32767 and 2 more, modulo 65536, above; the consumer recovers the signed value by sign extension. -/
def Obligations.SignedPortPatterns : Prop :=
  ∀ raw : Half,
    BitVec.ofInt 16 (twosComplement16 raw) = raw ∧
    BitVec.ofInt 16 (df5Temp raw) = (if raw.toNat ≤ 32767 then raw else raw + 2) ∧
    (BitVec.ofInt 16 (df5Temp raw)).toInt = df5Temp raw

/-! ### The inverses -/

/-- R110: the fixture of DF2 or DF4 for targets in range decodes to exactly those targets. -/
def Obligations.Format24FixturesHitTheirTargets : Prop :=
  ∀ (h p : Nat) (t : Int) (eid : Option Byte) (s : State), s.inp.inValid = true →
    h ≤ 255 → -127 ≤ t → t ≤ 127 → 50000 ≤ p → p ≤ 115535 →
    (∃ u, exec (fixtureDf2 h t p eid) s = .next u ∧
      observe u.out = some (.reading (.v2 ((h : Rat) / 2) t ((p : Rat) / 100) eid))) ∧
    (∃ u, exec (fixtureDf4 h t p eid) s = .next u ∧
      observe u.out = some (.reading (.v4 ((h : Rat) / 2) t ((p : Rat) / 100) eid)))

/-- R130: the fixture of DF3 for targets in range decodes to exactly those targets. -/
def Obligations.Format3FixturesHitTheirTargets : Prop :=
  ∀ (h p b : Nat) (t ax ay az : Int) (s : State), s.inp.inValid = true →
    h ≤ 99 → -12799 ≤ t → t ≤ 12800 → 50000 ≤ p → p ≤ 115535 → b ≤ 65535 →
    -32768 ≤ ax → ax ≤ 32767 → -32768 ≤ ay → ay ≤ 32767 → -32768 ≤ az → az ≤ 32767 →
    ∃ u, exec (fixtureDf3 h t p ax ay az b) s = .next u ∧
      observe u.out = some (.reading (.v3 ((h : Rat) / 2) ((t : Rat) / 100) p ax ay az b))

/-- R154: the fixture of DF5 for targets in range decodes to exactly those targets, with 65534 added to a negative
temperature count. -/
def Obligations.Format5FixturesHitTheirTargets : Prop :=
  ∀ (h p b q : Nat) (t ax ay az x : Int) (mv : Byte) (s : State), s.inp.inValid = true →
    h ≤ 65535 → -32766 ≤ t → t ≤ 32767 → 50000 ≤ p → p ≤ 115535 → 1600 ≤ b → b ≤ 3647 → q ≤ 65535 →
    -40 ≤ x → x ≤ 22 → x % 2 = 0 →
    -32768 ≤ ax → ax ≤ 32767 → -32768 ≤ ay → ay ≤ 32767 → -32768 ≤ az → az ≤ 32767 →
    ∃ u, exec (fixtureDf5 t h p ax ay az b x mv q) s = .next u ∧
      observe u.out = some (.reading (.v5 ((t : Rat) / 200) ((h : Rat) / 400) p ax ay az b x mv q))

/-! ### The host -/

/-- R181: the marker test is containment, for every marker. -/
def Obligations.MarkerTestIsContainment : Prop :=
  ∀ marker text : Text, containsText marker text = true ↔ ∃ u v, text = u ++ marker ++ v

/-- R182: in a text with one `#` and something after it, the fragment is what follows the `#`; in a text without a `#`
there is none; for every front end. -/
def Obligations.FragmentFollowsTheHash : Prop :=
  ∀ (c : FrontEndParams) (text : Text),
    ('#' ∉ text → fragment c text = none) ∧
    ∀ (u : Text) (x : Char) (v : Text), text = u ++ '#' :: x :: v → '#' ∉ u → x ≠ '#' → '#' ∉ v →
      fragment c text = some (x :: v)

/-- R183: a fragment of exactly 9 characters gets three more, any other is passed on unchanged, for every front end. -/
def Obligations.NineCharactersArePadded : Prop :=
  ∀ (c : FrontEndParams) (f : Text),
    (f.length = 9 → ∃ p : Text, p.length = 3 ∧ repairFragment c f = f ++ p ∧ (repairFragment c f).length = 12 ∧
      p = [c.pad3.1, c.pad3.2.1, c.pad3.2.2]) ∧
    (f.length ≠ 9 → repairFragment c f = f)

/-- R186 with R181, R182, R184: the first failing check of the front end determines the error, for every front end. -/
def Obligations.FrontEndChecksInOrder : Prop :=
  ∀ (c : FrontEndParams) (text : Text),
    ((¬ ∃ u v, text = u ++ c.hostMarker ++ v) → frontEndWith c text = .error .notARecognizedUrl) ∧
    ((∃ u v, text = u ++ c.hostMarker ++ v) → '#' ∉ text → frontEndWith c text = .error .malformedUrl) ∧
    ∀ (u : Text) (x : Char) (v : Text), (∃ a b, text = a ++ c.hostMarker ++ b) →
      text = u ++ '#' :: x :: v → '#' ∉ u → x ≠ '#' → '#' ∉ v →
      frontEndWith c text =
        (match c.b64 (repairFragment c (x :: v)) with
         | none => .error .malformedEncoding
         | some bytes => .ok bytes)

/-- R25, R185: a payload is handed over with `len = min(n, 255)`, its byte at every offset below 20 and below its end,
its transport, `in_valid = 1`, and a canonical `pl`; what stands past its end is free (log 7); the canonical
form is log 5's choice. -/
def Obligations.HandOverPresentsThePayload : Prop :=
  ∀ (count : Nat) (t : Transport) (bytes : List Byte),
    (handOver count t bytes).inValid = true ∧ (handOver count t bytes).transport = t ∧
    (handOver count t bytes).len.toNat = min bytes.length 255 ∧
    (∀ k, k < 20 → k < bytes.length → bytes[k]? = some ((handOver count t bytes).pl.read k)) ∧
    (handOver count t bytes).Canonical

/-- R160: `decodeFromAdvertisement` yields V3, V5 or an error: the host samples the `Decode` of the bytes on the RAW
transport, its length saturated to 255 (R25). That the request leaves the host's queue is log 4's choice, that the outcome
is sampled once log 23's (both DESIGN CHOICE). -/
def Obligations.AdvertisementsYieldFormat3Or5 : Prop :=
  ∀ (s : State) (bytes : List Byte) (rest : List HostRequest), s.pending = .advertisement bytes :: rest →
    ∃ t o, step s = .next t ∧ t.pending = rest ∧ t.results = s.results ++ [.sampled o] ∧ o.outValid = true ∧
      o.variant ≠ 2 ∧ o.variant ≠ 4 ∧
      observe o = some (refDecode .raw (min bytes.length 255) (fun k => (bytes.getD k 0).toNat))

/-- R160, R185, R186: `decodeFromUrl` reports the front end's error with no transaction presented (log 11), or the
`Decode` of its bytes on the URL transport, which is V2, V4 or an error. That the request leaves the host's queue and the
front end's error is recorded is log 4's choice, that the outcome is sampled once log 23's (both DESIGN CHOICE). -/
def Obligations.UrlsYieldFormat2Or4OrAFrontEndError : Prop :=
  ∀ (s : State) (text : Text) (rest : List HostRequest), s.pending = .url text :: rest →
    ∃ t, step s = .next t ∧ t.pending = rest ∧
      match frontEnd text with
      | .error e => t.results = s.results ++ [.frontEnd e] ∧ t.inp.inValid = false ∧ t.out = OutPorts.idle
      | .ok bytes => ∃ o, t.results = s.results ++ [.sampled o] ∧ o.outValid = true ∧ o.variant ≠ 3 ∧ o.variant ≠ 5 ∧
          observe o = some (refDecode .url (min bytes.length 255) (fun k => (bytes.getD k 0).toNat))

/-- R191: the numeric code of every error of the taxonomy, 0 for a reading and while idle; the codes 4 and 5 are the
host's, and no step drives them, or 6, or 7. -/
def Obligations.ErrorCodeTable : Prop :=
  (∀ b : Byte, (DecodeError.unsupportedFormat b).code = 1 ∧ (DecodeError.malformedLength b).code = 2 ∧
    (DecodeError.malformedEncoding b).code = 3) ∧
  FrontEndError.malformedEncoding.code = 3 ∧ FrontEndError.notARecognizedUrl.code = 4 ∧
  FrontEndError.malformedUrl.code = 5 ∧
  ∀ s t : State, step s = .next t →
    t.out.errCode.toNat ≤ 3 ∧ ((t.out.ok = true ∨ t.out.outValid = false) → t.out.errCode = 0)

/-- R72, R167: bytes that no layout reads are ignored: two states with the same `in_valid`, transport and length, whose
payloads agree at every offset below 20 and below `len` other than 3 on the URL transport and 0 and 1 on the RAW transport,
both settle and drive the same outputs, so that no value of such a byte turns a reading into an error. -/
def Obligations.UnreadBytesDoNotReachTheOutputs : Prop :=
  ∀ s s' : State, s.inp.inValid = s'.inp.inValid → s.inp.transport = s'.inp.transport → s.inp.len = s'.inp.len →
    (∀ k, k < s.inp.len.toNat → k < 20 → (s.inp.transport = .url → k ≠ 3) → (s.inp.transport = .raw → k ≠ 0 ∧ k ≠ 1) →
      s.inp.pl.read k = s'.inp.pl.read k) →
    ∃ t t', settle s = .next t ∧ settle s' = .next t' ∧ t.out = t'.out
end

