-- ==== Sys2Proof/Laws/Memory.lean ====
section
/-! SUPPORT. The payload space: read after write, and that every memory operation keeps the canonical form. -/

namespace Sys2Proof.Machine

@[simp] theorem Memory.read_nil (a : Nat) : Memory.read [] a = Memory.unlisted := rfl

/-- Nothing is listed below the bound of a canonical list. -/
theorem Memory.read_below {m : Memory} {lo a : Nat} (h : Memory.wfFrom lo m = true) (ha : a < lo) :
    m.read a = Memory.unlisted := by
  induction m generalizing lo with
  | nil => rfl
  | cons x m ih =>
    obtain ⟨k, b⟩ := x
    simp only [Memory.wfFrom, Bool.and_eq_true, decide_eq_true_eq] at h
    have hk : k ≠ a := by omega
    simp [Memory.read, hk, ih h.2 (by omega)]

/-- A lower bound may be lowered. -/
theorem Memory.wfFrom_mono {m : Memory} {lo lo' : Nat} (h : Memory.wfFrom lo m = true) (hl : lo' ≤ lo) :
    Memory.wfFrom lo' m = true := by
  cases m with
  | nil => rfl
  | cons x m =>
    obtain ⟨k, b⟩ := x
    simp only [Memory.wfFrom, Bool.and_eq_true, decide_eq_true_eq] at h ⊢
    exact ⟨⟨⟨by omega, h.1.1.2⟩, h.1.2⟩, h.2⟩

/-- Inserting keeps the canonical form. -/
theorem Memory.insert_wfFrom {m : Memory} {lo a : Nat} {b : Byte} (h : Memory.wfFrom lo m = true) (hlo : lo ≤ a)
    (ha : a < Config.plBytes) : Memory.wfFrom lo (m.insert a b) = true := by
  induction m generalizing lo with
  | nil =>
    simp only [Memory.insert]
    split
    · rfl
    · simp_all [Memory.wfFrom]
  | cons x m ih =>
    obtain ⟨k, c⟩ := x
    have h0 := h
    simp only [Memory.wfFrom, Bool.and_eq_true, decide_eq_true_eq] at h
    obtain ⟨⟨⟨h1, h2⟩, h3⟩, h4⟩ := h
    simp only [Memory.insert]
    split
    · split
      · exact h0
      · simp only [Memory.wfFrom, Bool.and_eq_true, decide_eq_true_eq]
        exact ⟨⟨⟨hlo, ha⟩, ‹_›⟩, ⟨⟨by omega, h2⟩, h3⟩, h4⟩
    · split
      · split
        · exact Memory.wfFrom_mono h4 (by omega)
        · simp only [Memory.wfFrom, Bool.and_eq_true, decide_eq_true_eq]
          subst a
          exact ⟨⟨⟨hlo, ha⟩, ‹_›⟩, h4⟩
      · simp only [Memory.wfFrom, Bool.and_eq_true, decide_eq_true_eq]
        exact ⟨⟨⟨h1, h2⟩, h3⟩, ih h4 (by omega)⟩

/-- What a read sees after an insertion into a canonical list. -/
theorem Memory.read_insert {m : Memory} {lo a : Nat} {b : Byte} (h : Memory.wfFrom lo m = true) (x : Nat) :
    (m.insert a b).read x = if x = a then b else m.read x := by
  induction m generalizing lo with
  | nil =>
    simp only [Memory.insert]
    split
    · split <;> simp_all
    · simp [Memory.read, eq_comm]
  | cons y m ih =>
    obtain ⟨k, c⟩ := y
    simp only [Memory.wfFrom, Bool.and_eq_true, decide_eq_true_eq] at h
    obtain ⟨⟨⟨h1, h2⟩, h3⟩, h4⟩ := h
    simp only [Memory.insert]
    split
    · split
      · by_cases hx : x = a
        · subst x
          have : k ≠ a := by omega
          simp [Memory.read, Memory.read_below h4 (show a < k + 1 by omega), *]
        · simp [hx]
      · simp [Memory.read, eq_comm]
    · split
      · subst a
        split
        · by_cases hx : x = k
          · simp [Memory.read_below h4 (show k < k + 1 by omega), *]
          · have : k ≠ x := fun e => hx e.symm
            simp [Memory.read, hx, this]
        · by_cases hx : x = k
          · simp [Memory.read, hx]
          · have : k ≠ x := fun e => hx e.symm
            simp [Memory.read, hx, this]
      · by_cases hx : k = x
        · subst x
          have : k ≠ a := by omega
          simp [Memory.read, this]
        · simp [Memory.read, hx, ih h4]

/-- A host write keeps the canonical form. -/
theorem Memory.write_wf {m : Memory} (a : Nat) (b : Byte) (h : m.wf = true) : (m.write a b).wf = true := by
  unfold Memory.write
  split
  · exact Memory.insert_wfFrom h (Nat.zero_le a) ‹_›
  · exact h

/-- Reading where the host has just written gives the byte written. -/
theorem Memory.read_write_same {m : Memory} {a : Nat} (b : Byte) (h : m.wf = true) (ha : a < Config.plBytes) :
    (m.write a b).read a = b := by
  simp [Memory.write, ha, Memory.read_insert h]

/-- A host write leaves every other position alone. -/
theorem Memory.read_write_other {m : Memory} {a x : Nat} (b : Byte) (h : m.wf = true) (hx : x ≠ a) :
    (m.write a b).read x = m.read x := by
  unfold Memory.write
  split
  · simp [Memory.read_insert h, hx]
  · rfl

/-- Driving positions one after the other builds a canonical payload. -/
theorem Memory.driveFrom_wf (a : Nat) (bs : List Byte) : (Memory.driveFrom a bs).wf = true := by
  induction bs generalizing a with
  | nil => rfl
  | cons b bs ih => exact Memory.write_wf a b (ih (a + 1))

/-- What is read after driving positions from `a` on. -/
theorem Memory.read_driveFrom (a : Nat) (bs : List Byte) (x : Nat) (hx : x < Config.plBytes) :
    (Memory.driveFrom a bs).read x = if a ≤ x then bs.getD (x - a) 0 else 0 := by
  induction bs generalizing a with
  | nil => simp [Memory.driveFrom, Memory.unlisted]
  | cons b bs ih =>
    by_cases h : x = a
    · subst x
      rw [Memory.driveFrom, Memory.read_write_same b (Memory.driveFrom_wf _ _) hx]
      simp
    · rw [Memory.driveFrom, Memory.read_write_other b (Memory.driveFrom_wf _ _) h, ih]
      by_cases hl : a ≤ x
      · obtain ⟨d, rfl⟩ : ∃ d, x = a + 1 + d := ⟨x - (a + 1), by omega⟩
        have h1 : a + 1 + d - (a + 1) = d := by omega
        have h2 : a + 1 + d - a = d + 1 := by omega
        rw [if_pos (by omega), if_pos hl, h1, h2, List.getD_cons_succ]
      · rw [if_neg (by omega), if_neg hl]

/-- The reset payload is canonical. -/
theorem reset_pl_wf : State.reset.inp.pl.wf = true := rfl

/-- The payload of a hand-over is canonical. -/
theorem handOver_wf (count : Nat) (t : Transport) (bytes : List Byte) : (handOver count t bytes).pl.wf = true :=
  Memory.driveFrom_wf _ _

/-- The value of a 16-bit read (20_memory.md R42). -/
theorem Memory.read16_toNat (m : Memory) (a : Nat) :
    (m.read16 a).toNat = (m.read a).toNat * 256 + (m.read (a + 1)).toNat := by
  have := (m.read (a + 1)).isLt
  simp only [Memory.read16, BitVec.toNat_append, Nat.shiftLeft_eq]
  rw [Nat.mul_comm, ← Nat.two_pow_add_eq_or_of_lt this]

end Sys2Proof.Machine
end

