-- ==== Sys2Proof/Laws/PerInstr.lean ====
section
/-! SUPPORT. Statements about every instruction as syntax, one lemma per constructor. -/

namespace Sys2Proof.Laws

/-- The family `EncodedLength`: the words of a well-formed instruction have a length that is legal under the
instruction's key, and all bytes of the first 20 are written (30_encoding.md R62, R73). -/
def EncodedLength.Statement (i : Instr) : Prop :=
  WellFormed i = true →
    legalLength (keyOf i) (encode i).len.toNat = true ∧
    (encode i).bytes.length = min (encode i).len.toNat Config.plBytes

theorem EncodedLength.df2 (hum temp : Byte) (press : Half) (eid : Option Byte) :
    EncodedLength.Statement (.df2 hum temp press eid) := by
  intro _
  cases eid <;> exact ⟨rfl, rfl⟩

theorem EncodedLength.df4 (hum temp : Byte) (press : Half) (eid : Option Byte) :
    EncodedLength.Statement (.df4 hum temp press eid) := by
  intro _
  cases eid <;> exact ⟨rfl, rfl⟩

theorem EncodedLength.df3 (hum tInt tFrac : Byte) (press ax ay az batt : Half) :
    EncodedLength.Statement (.df3 hum tInt tFrac press ax ay az batt) := fun _ => ⟨rfl, rfl⟩

theorem EncodedLength.df5 (len : Len) (temp hum press ax ay az powerInfo : Half) (move : Byte) (seq : Half) :
    EncodedLength.Statement (.df5 len temp hum press ax ay az powerInfo move seq) := by
  intro h
  have hl : 20 ≤ len.toNat := by simpa [WellFormed] using h
  refine ⟨by simpa [legalLength, keyOf, encode] using hl, ?_⟩
  simpa [encode, halfBytes, Config.plBytes] using hl

end Sys2Proof.Laws
end

