-- ==== Sys2Proof/Laws/State.lean ====
section
/-! SUPPORT. One lemma per field per update of the state, so that no proof unfolds a record update. -/

namespace Sys2Proof.Machine

@[simp] theorem State.drive_inp (o : DecodeOutcome Reading) (s : State) : (s.drive o).inp = s.inp := rfl
@[simp] theorem State.drive_pending (o : DecodeOutcome Reading) (s : State) : (s.drive o).pending = s.pending := rfl
@[simp] theorem State.drive_results (o : DecodeOutcome Reading) (s : State) : (s.drive o).results = s.results := rfl
@[simp] theorem State.drive_out (o : DecodeOutcome Reading) (s : State) : (s.drive o).out = mux s.inp.inValid o := rfl

@[simp] theorem State.raise_inp (e : DecodeError) (s : State) : (s.raise e).inp = s.inp := rfl
@[simp] theorem State.raise_pending (e : DecodeError) (s : State) : (s.raise e).pending = s.pending := rfl
@[simp] theorem State.raise_results (e : DecodeError) (s : State) : (s.raise e).results = s.results := rfl
@[simp] theorem State.raise_out (e : DecodeError) (s : State) : (s.raise e).out = mux s.inp.inValid (.error e) := rfl

@[simp] theorem State.goIdle_inp (s : State) : s.goIdle.inp = s.inp := rfl
@[simp] theorem State.goIdle_pending (s : State) : s.goIdle.pending = s.pending := rfl
@[simp] theorem State.goIdle_results (s : State) : s.goIdle.results = s.results := rfl
@[simp] theorem State.goIdle_out (s : State) : s.goIdle.out = OutPorts.idle := rfl

@[simp] theorem record_hold (s : State) : record .hold s = s := rfl
@[simp] theorem record_inp (n : HostNote) (s : State) : (record n s).inp = s.inp := by cases n <;> rfl
@[simp] theorem record_out (n : HostNote) (s : State) : (record n s).out = s.out := by cases n <;> rfl
@[simp] theorem record_pending (n : HostNote) (s : State) : (record n s).pending = s.pending := by cases n <;> rfl
@[simp] theorem record_sample_results (s : State) :
    (record .sample s).results = s.results ++ [.sampled s.out] := rfl
@[simp] theorem record_report_results (e : FrontEndError) (s : State) :
    (record (.report e) s).results = s.results ++ [.frontEnd e] := rfl

@[simp] theorem mux_idle (o : DecodeOutcome Reading) : mux false o = OutPorts.idle := rfl
@[simp] theorem mux_valid (o : DecodeOutcome Reading) : mux true o = outcomePorts o := rfl

@[simp] theorem mapNext_next (f : State → State) (s : State) : mapNext f (.next s) = .next (f s) := rfl
@[simp] theorem mapNext_fault (f : State → State) (r : Fault) : mapNext f (.fault r) = .fault r := rfl
@[simp] theorem mapNext_refused (f : State → State) (r : Refusal) : mapNext f (.refused r) = .refused r := rfl

@[simp] theorem State.withFetchWord_inp (s : State) (nbits w : Nat) : (s.withFetchWord nbits w).inp = s.inp := rfl
@[simp] theorem State.withFetchWord_out (s : State) (nbits w : Nat) : (s.withFetchWord nbits w).out = s.out := rfl
@[simp] theorem State.withFetchWord_results (s : State) (nbits w : Nat) :
    (s.withFetchWord nbits w).results = s.results := rfl

end Sys2Proof.Machine
end

