-- ==== Sys2Proof/Laws/Step.lean ====
section
/-! SUPPORT. What each shared operation can do, said once: the decimal digit pair, the checked reads, the dispatcher,
the meanings, settling, the host's move and the step. -/

namespace Sys2Proof

open Sys2Proof.Machine

/-- Two decimal digits read as ten times the high one plus the low one. -/
theorem decimalOf_of_digits {hi lo : Nat} (hh : hi ≤ 9) (hl : lo ≤ 9) : decimalOf hi lo = 10 * hi + lo :=
  if_pos ⟨hh, hl⟩

/-- `dec2` on its domain. -/
theorem dec2_of_isDec2 {b : Byte} (h : isDec2 b = true) : dec2 b = 10 * highNibble b + lowNibble b := by
  simp only [isDec2, Bool.and_eq_true, decide_eq_true_eq] at h
  exact decimalOf_of_digits h.1 h.2

/-- A legal one-byte read gives the byte. -/
theorem memRead1_eq {len : Len} {addr : Nat} (pl : Memory) (h : addr + 1 ≤ len.toNat) (hp : addr + 1 ≤ Config.plBytes) :
    memRead1 len pl addr = .ok (pl.read addr) := by
  simp [memRead1, readLegal, h, hp]

/-- A legal two-byte read gives the big-endian field. -/
theorem memRead2_eq {len : Len} {addr : Nat} (pl : Memory) (h : addr + 2 ≤ len.toNat) (hp : addr + 2 ≤ Config.plBytes) :
    memRead2 len pl addr = .ok (pl.read16 addr) := by
  simp [memRead2, readLegal, h, hp]

/-- The trailing identifier byte, on a payload of 6 or 7 bytes. -/
theorem readEid_eq (len : Len) (pl : Memory) :
    readEid len pl = .ok (if len = 7 then some (pl.read 6) else none) := by
  unfold readEid
  split
  · subst_vars
    rfl
  · rfl

theorem decodeDf2_eq {len : Len} (pl : Memory) (h : 6 ≤ len.toNat) :
    decodeDf2 len pl =
      .ok (.df2 (pl.read 1) (pl.read 2) (pl.read16 4) (if len = 7 then some (pl.read 6) else none)) := by
  simp only [decodeDf2, memRead1_eq pl (show 1 + 1 ≤ len.toNat by omega) (by decide),
    memRead1_eq pl (show 2 + 1 ≤ len.toNat by omega) (by decide),
    memRead2_eq pl (show 4 + 2 ≤ len.toNat by omega) (by decide), readEid_eq]
  rfl

theorem decodeDf4_eq {len : Len} (pl : Memory) (h : 6 ≤ len.toNat) :
    decodeDf4 len pl =
      .ok (.df4 (pl.read 1) (pl.read 2) (pl.read16 4) (if len = 7 then some (pl.read 6) else none)) := by
  simp only [decodeDf4, memRead1_eq pl (show 1 + 1 ≤ len.toNat by omega) (by decide),
    memRead1_eq pl (show 2 + 1 ≤ len.toNat by omega) (by decide),
    memRead2_eq pl (show 4 + 2 ≤ len.toNat by omega) (by decide), readEid_eq]
  rfl

theorem decodeDf3_eq {len : Len} (pl : Memory) (h : 16 ≤ len.toNat) :
    decodeDf3 len pl =
      .ok (.df3 (pl.read 3) (pl.read 4) (pl.read 5) (pl.read16 6) (pl.read16 8) (pl.read16 10) (pl.read16 12)
        (pl.read16 14)) := by
  simp only [decodeDf3, memRead1_eq pl (show 3 + 1 ≤ len.toNat by omega) (by decide),
    memRead1_eq pl (show 4 + 1 ≤ len.toNat by omega) (by decide),
    memRead1_eq pl (show 5 + 1 ≤ len.toNat by omega) (by decide),
    memRead2_eq pl (show 6 + 2 ≤ len.toNat by omega) (by decide),
    memRead2_eq pl (show 8 + 2 ≤ len.toNat by omega) (by decide),
    memRead2_eq pl (show 10 + 2 ≤ len.toNat by omega) (by decide),
    memRead2_eq pl (show 12 + 2 ≤ len.toNat by omega) (by decide),
    memRead2_eq pl (show 14 + 2 ≤ len.toNat by omega) (by decide)]
  rfl

theorem decodeDf5_eq {len : Len} (pl : Memory) (h : 20 ≤ len.toNat) :
    decodeDf5 len pl =
      .ok (.df5 len (pl.read16 3) (pl.read16 5) (pl.read16 7) (pl.read16 9) (pl.read16 11) (pl.read16 13)
        (pl.read16 15) (pl.read 17) (pl.read16 18)) := by
  simp only [decodeDf5, memRead2_eq pl (show 3 + 2 ≤ len.toNat by omega) (by decide),
    memRead2_eq pl (show 5 + 2 ≤ len.toNat by omega) (by decide),
    memRead2_eq pl (show 7 + 2 ≤ len.toNat by omega) (by decide),
    memRead2_eq pl (show 9 + 2 ≤ len.toNat by omega) (by decide),
    memRead2_eq pl (show 11 + 2 ≤ len.toNat by omega) (by decide),
    memRead2_eq pl (show 13 + 2 ≤ len.toNat by omega) (by decide),
    memRead2_eq pl (show 15 + 2 ≤ len.toNat by omega) (by decide),
    memRead1_eq pl (show 17 + 1 ≤ len.toNat by omega) (by decide),
    memRead2_eq pl (show 18 + 2 ≤ len.toNat by omega) (by decide)]
  rfl

/-- Everything the URL dispatcher can answer, with no read left to check. -/
theorem dispatchUrl_eq (len : Len) (pl : Memory) :
    dispatchUrl len pl =
      if len.toNat < 6 ∨ 7 < len.toNat then .error (.error (.malformedLength len))
      else if pl.read 0 = 2 then
        .ok (.df2 (pl.read 1) (pl.read 2) (pl.read16 4) (if len = 7 then some (pl.read 6) else none))
      else if pl.read 0 = 4 then
        .ok (.df4 (pl.read 1) (pl.read 2) (pl.read16 4) (if len = 7 then some (pl.read 6) else none))
      else .error (.error (.unsupportedFormat (pl.read 0))) := by
  unfold dispatchUrl
  by_cases h : len.toNat < 6 ∨ 7 < len.toNat
  · rw [if_pos h, if_pos h]
  · rw [if_neg h, if_neg h, memRead1_eq pl (show 0 + 1 ≤ len.toNat by omega) (by decide),
      decodeDf2_eq pl (by omega), decodeDf4_eq pl (by omega)]
    rfl

/-- Everything the RAW dispatcher can answer, with no read left to check. -/
theorem dispatchRaw_eq (len : Len) (pl : Memory) :
    dispatchRaw len pl =
      if len.toNat < 3 then .error (.error (.malformedLength len))
      else if pl.read 2 = 3 then
        if len.toNat ≠ 16 then .error (.error (.malformedLength len))
        else .ok (.df3 (pl.read 3) (pl.read 4) (pl.read 5) (pl.read16 6) (pl.read16 8) (pl.read16 10) (pl.read16 12)
          (pl.read16 14))
      else if pl.read 2 = 5 then
        if len.toNat < 20 then .error (.error (.malformedLength len))
        else .ok (.df5 len (pl.read16 3) (pl.read16 5) (pl.read16 7) (pl.read16 9) (pl.read16 11) (pl.read16 13)
          (pl.read16 15) (pl.read 17) (pl.read16 18))
      else .error (.error (.unsupportedFormat (pl.read 2))) := by
  unfold dispatchRaw
  by_cases h : len.toNat < 3
  · rw [if_pos h, if_pos h]
  · rw [if_neg h, if_neg h, memRead1_eq pl (show 2 + 1 ≤ len.toNat by omega) (by decide)]
    show (if pl.read 2 = 3 then _ else _) = _
    by_cases h3 : pl.read 2 = 3
    · rw [if_pos h3, if_pos h3]
      by_cases hl : len.toNat ≠ 16
      · rw [if_pos hl, if_pos hl]
      · rw [if_neg hl, if_neg hl, decodeDf3_eq pl (by omega)]
    · rw [if_neg h3, if_neg h3]
      by_cases h5 : pl.read 2 = 5
      · rw [if_pos h5, if_pos h5]
        by_cases hl : len.toNat < 20
        · rw [if_pos hl, if_pos hl]
        · rw [if_neg hl, if_neg hl, decodeDf5_eq pl (by omega)]
      · rw [if_neg h5, if_neg h5]

namespace Machine

/-- What DF2 can do: drive the V2 reading of its operands. -/
theorem execDf2_next {hum temp : Byte} {press : Half} {eid : Option Byte} {s t : State}
    (h : execDf2 hum temp press eid s = .next t) : t = s.drive (.reading (.v2 (fields24 hum temp press eid))) := by
  cases h; rfl

/-- What DF4 can do: drive the V4 reading of its operands. -/
theorem execDf4_next {hum temp : Byte} {press : Half} {eid : Option Byte} {s t : State}
    (h : execDf4 hum temp press eid s = .next t) : t = s.drive (.reading (.v4 (fields24 hum temp press eid))) := by
  cases h; rfl

/-- What DF3 can do: drive the V3 reading, or raise malformed-encoding. -/
theorem execDf3_next {hum tInt tFrac : Byte} {press ax ay az batt : Half} {s t : State}
    (h : execDf3 hum tInt tFrac press ax ay az batt s = .next t) :
    (isDec2 hum = true ∧ t = s.drive (.reading (.v3 (fields3 hum tInt tFrac press ax ay az batt)))) ∨
    (isDec2 hum = false ∧ t = s.raise (.malformedEncoding hum)) := by
  unfold execDf3 at h
  split at h <;> cases h
  · exact .inl ⟨‹_›, rfl⟩
  · exact .inr ⟨Bool.eq_false_iff.mpr ‹_›, rfl⟩

/-- What DF5 can do: drive the V5 reading of its operands. -/
theorem execDf5_next {temp hum press ax ay az powerInfo : Half} {move : Byte} {seq : Half} {s t : State}
    (h : execDf5 temp hum press ax ay az powerInfo move seq s = .next t) :
    t = s.drive (.reading (.v5 (fields5 temp hum press ax ay az powerInfo move seq))) := by
  cases h; rfl

/-- Every meaning only drives an outcome onto the output ports. -/
theorem exec_drives {i : Instr} {s t : State} (h : exec i s = .next t) : ∃ o, t = s.drive o := by
  cases i with
  | df2 hum temp press eid => exact ⟨_, execDf2_next h⟩
  | df4 hum temp press eid => exact ⟨_, execDf4_next h⟩
  | df3 hum tInt tFrac press ax ay az batt =>
    rcases execDf3_next h with ⟨_, e⟩ | ⟨_, e⟩
    · exact ⟨_, e⟩
    · exact ⟨.error (.malformedEncoding hum), e⟩
  | df5 len temp hum press ax ay az powerInfo move seq => exact ⟨_, execDf5_next h⟩

/-- What settling can do: go idle, run the decoded operation, or raise the dispatcher's error. -/
theorem settle_next {s t : State} (h : settle s = .next t) :
    (s.inp.inValid = false ∧ t = s.goIdle) ∨
    (s.inp.inValid = true ∧ ∃ i, decode s.inp.transport s.inp.len s.inp.pl = .ok i ∧ exec i s = .next t) ∨
    (s.inp.inValid = true ∧ ∃ e, decode s.inp.transport s.inp.len s.inp.pl = .error (.error e) ∧ t = s.raise e) := by
  unfold settle at h
  split at h
  · split at h
    · exact .inr (.inl ⟨‹_›, _, ‹_›, h⟩)
    · cases h
      exact .inr (.inr ⟨‹_›, _, ‹_›, rfl⟩)
    · cases h
  · cases h
    exact .inl ⟨Bool.eq_false_iff.mpr ‹_›, rfl⟩

/-- What a step can do: settle after the host's move, then record. -/
theorem step_next {s t : State} (h : step s = .next t) :
    ∃ u, settle (hostMove s).1 = .next u ∧ t = record (hostMove s).2 u := by
  unfold step advance at h
  cases hs : settle (hostMove s).1 with
  | next u =>
    rw [hs] at h
    cases h
    exact ⟨u, rfl, rfl⟩
  | fault r => rw [hs] at h; cases h
  | refused r => rw [hs] at h; cases h

/-- Everything the host's move can do. -/
theorem hostMove_cases (s : State) :
    (s.pending = [] ∧ hostMove s = (s, .hold)) ∨
    (∃ p rest, s.pending = .ports p :: rest ∧ hostMove s = ({ s with inp := p, pending := rest }, .sample)) ∨
    (∃ bytes rest, s.pending = .advertisement bytes :: rest ∧
      hostMove s = ({ s with inp := handOver s.results.length .raw bytes, pending := rest }, .sample)) ∨
    (∃ text rest, s.pending = .url text :: rest ∧
      ((∃ bytes, frontEnd text = .ok bytes ∧
          hostMove s = ({ s with inp := handOver s.results.length .url bytes, pending := rest }, .sample)) ∨
       (∃ e, frontEnd text = .error e ∧
          hostMove s = ({ s with inp := { s.inp with inValid := false }, pending := rest }, .report e)))) := by
  unfold hostMove
  split
  · exact .inl ⟨‹_›, rfl⟩
  · exact .inr (.inl ⟨_, _, ‹_›, rfl⟩)
  · exact .inr (.inr (.inl ⟨_, _, ‹_›, rfl⟩))
  · refine .inr (.inr (.inr ⟨_, _, ‹_›, ?_⟩))
    split
    · exact .inl ⟨_, ‹_›, rfl⟩
    · exact .inr ⟨_, ‹_›, rfl⟩

end Machine

end Sys2Proof
end

