-- ==== Sys2Proof/Machine/Written.lean ====
section
/-! DEFINITION. The written form of transactions and outcomes (30_encoding.md R74; D13). It carries no semantics: no step
uses it. -/

namespace Sys2Proof.Machine

/-- One hexadecimal digit, in capitals. -/
def hexChar (n : Nat) : Char := if n < 10 then Char.ofNat (48 + n) else Char.ofNat (55 + n)

/-- A byte in two hexadecimal digits. -/
def writtenByte (b : Byte) : Text := [hexChar (highNibble b), hexChar (lowNibble b)]

/-- A transaction: the transport's name and the bytes in offset order. -/
def writtenTransaction (x : Transaction) : Text :=
  (match x.transport with
   | .url => "URL".toList
   | .raw => "RAW".toList) ++ x.bytes.flatMap (fun b => ' ' :: writtenByte b)

/-- The decimals of a fraction `r / d` below 1, to at most `places` digits, stopping where nothing is left. -/
def writtenDecimals (d : Nat) : Nat → Nat → Text
  | 0, _ => []
  | places + 1, r => if r = 0 then [] else hexChar (r * 10 / d) :: writtenDecimals d places (r * 10 % d)

/-- The exact decimal of `n / d` for the denominators 1, 2, 100, 200 and 400 (40_primitives.md R98). -/
def writtenRatio (n : Int) (d : Nat) : Text :=
  (if n < 0 then ['-'] else []) ++ Nat.toDigits 10 (n.natAbs / d) ++
    (if n.natAbs % d = 0 then [] else '.' :: writtenDecimals d 4 (n.natAbs % d))

/-- `name=value`, as a field of a written reading. -/
def writtenField (name : String) (value : Text) : Text := name.toList ++ '=' :: value

/-- Join the fields of a reading with commas. -/
def joinFields : List Text → Text
  | [] => []
  | [f] => f
  | f :: fs => f ++ ", ".toList ++ joinFields fs

/-- The optional identifier of a V2 or V4 reading. -/
def writtenEid : Option Byte → Text
  | none => "absent".toList
  | some e => Nat.toDigits 10 e.toNat

/-- A reading: its variant and its abstract field values in braces (characters 123 and 125). -/
def writtenFields (variant : String) (fields : List Text) : Text :=
  variant.toList ++ Char.ofNat 123 :: joinFields fields ++ [Char.ofNat 125]

/-- The fields of a V2 or V4 reading. -/
def written24 (f : Fields24) : List Text :=
  [writtenField "humidity" (writtenRatio f.humidity 2), writtenField "temperature" (writtenRatio f.temperature 1),
    writtenField "pressure" (writtenRatio f.pressure 100), writtenField "eddystoneId" (writtenEid f.eddystoneId)]

/-- A reading as the spec writes it. -/
def writtenReading : Reading → Text
  | .v2 f => writtenFields "V2" (written24 f)
  | .v4 f => writtenFields "V4" (written24 f)
  | .v3 f => writtenFields "V3"
      [writtenField "humidity" (writtenRatio f.humidity 2), writtenField "temperature" (writtenRatio f.temperature 100),
        writtenField "pressure" (writtenRatio f.pressure 1), writtenField "accelerationX" (writtenRatio f.accelerationX 1),
        writtenField "accelerationY" (writtenRatio f.accelerationY 1),
        writtenField "accelerationZ" (writtenRatio f.accelerationZ 1), writtenField "battery" (writtenRatio f.battery 1)]
  | .v5 f => writtenFields "V5"
      [writtenField "temperature" (writtenRatio f.temperature 200), writtenField "humidity" (writtenRatio f.humidity 400),
        writtenField "pressure" (writtenRatio f.pressure 1), writtenField "accelerationX" (writtenRatio f.accelerationX 1),
        writtenField "accelerationY" (writtenRatio f.accelerationY 1),
        writtenField "accelerationZ" (writtenRatio f.accelerationZ 1), writtenField "battery" (writtenRatio f.battery 1),
        writtenField "txPower" (writtenRatio f.txPower 1),
        writtenField "movementCounter" (writtenRatio f.movementCounter.toNat 1),
        writtenField "measurementSequenceNumber" (writtenRatio f.measurementSequenceNumber 1)]

/-- The name of an error (60_exceptions.md R190). -/
def DecodeError.name : DecodeError → String
  | .unsupportedFormat _ => "unsupported-format"
  | .malformedLength _ => "malformed-length"
  | .malformedEncoding _ => "malformed-encoding"

/-- An outcome as the spec writes it: a reading, or `ERR` with the error's name and context. -/
def writtenOutcome : DecodeOutcome Reading → Text
  | .reading r => writtenReading r
  | .error e => "ERR ".toList ++ e.name.toList ++ '(' :: Nat.toDigits 10 e.info.toNat ++ [')']

end Sys2Proof.Machine
end

