-- ==== Sys2Proof/Tests/Slice0.lean ====
section
/-! SUPPORT. Tests from the spec's own words and vectors (95_test_vectors.md), and a witness for every statement that has
hypotheses. -/

namespace Sys2Proof.Tests

open Sys2Proof Sys2Proof.Machine

/-- A transaction written as byte values, its length the number of bytes. -/
def txn (t : Transport) (l : List Nat) : Transaction := ⟨t, BitVec.ofNat 8 l.length, l.map (BitVec.ofNat 8)⟩

/-- The state that presents a transaction, outputs not yet settled. -/
def shown (t : Transport) (l : List Nat) : State := { State.reset with inp := presentTransaction (txn t l) }

/-- The state whose next request presents a transaction. -/
def asked (t : Transport) (l : List Nat) : State :=
  { State.reset with pending := [.ports (presentTransaction (txn t l))] }

/-- The output ports of a step's answer. -/
def outOf : Host.Outcome State Fault Refusal → Option OutPorts
  | .next s => some s.out
  | .fault _ => none
  | .refused _ => none

/-- The reading off the ports after one step on a transaction. -/
def readAfter (t : Transport) (l : List Nat) : Option Reading := (outOf (step (asked t l))).bind observedReading

/-- The error off the ports after one step on a transaction. -/
def errorAfter (t : Transport) (l : List Nat) : Option DecodeError := (outOf (step (asked t l))).bind observedError

def va1 : List Nat := [0x02, 0x51, 0x17, 0x00, 0xC3, 0x50]
def va4 : List Nat := [0x04, 0x80, 0x80, 0x80, 0x80, 0x96, 0x82]
def vb1 : List Nat := [0x99, 0x04, 0x03, 0x29, 0x1A, 0x1E, 0xCE, 0x1E, 0xFC, 0x18, 0xF9, 0x42, 0x02, 0xCA, 0x0B, 0x53]
def vb15 : List Nat := [0x99, 0x04, 0x03, 0xA1, 0x1A, 0x1E, 0xCE, 0x1E, 0xFC, 0x18, 0xF9, 0x42, 0x02, 0xCA, 0x0B, 0x53]
def vc1 : List Nat :=
  [0x99, 0x04, 0x05, 0x12, 0xFC, 0x53, 0x94, 0xC3, 0x7C, 0x00, 0x04, 0xFF, 0xFC, 0x04, 0x0C, 0xAC, 0x36, 0x42, 0x00, 0xCD]
def vc4 : List Nat :=
  [0x99, 0x04, 0x05, 0x80, 0x00, 0x53, 0x94, 0xC3, 0x7C, 0x00, 0x04, 0xFF, 0xFC, 0x04, 0x0C, 0xFF, 0xFF, 0x42, 0x00, 0xCD]

/-! Well-formedness: one check, one ill-formed term it refuses. -/

theorem test_df5_short_length_is_ill_formed : WellFormed (.df5 19 0 0 0 0 0 0 0 0 0) = false := by decide
theorem test_df5_length_20_is_well_formed : WellFormed (.df5 20 0 0 0 0 0 0 0 0 0) = true := by decide

/-! Decoding of words written out from Tables 30-2, 30-3 and 30-4. -/

theorem test_decode_df2 : decodeTransaction (txn .url va1) = .ok (.df2 0x51 0x17 0xC350 none) := by decide
theorem test_decode_df4 : decodeTransaction (txn .url va4) = .ok (.df4 0x80 0x80 0x8096 (some 0x82)) := by decide
theorem test_decode_df3 :
    decodeTransaction (txn .raw vb1) = .ok (.df3 0x29 0x1A 0x1E 0xCE1E 0xFC18 0xF942 0x02CA 0x0B53) := by decide
theorem test_decode_df5 :
    decodeTransaction (txn .raw vc1) =
      .ok (.df5 20 0x12FC 0x5394 0xC37C 0x0004 0xFFFC 0x040C 0xAC36 0x42 0x00CD) := by decide

/-- The four words of the opcode table. -/
theorem test_table_words :
    decodeTableWord 16 0x002 = some (.df2 0 0 0 none) ∧ decodeTableWord 16 0x004 = some (.df4 0 0 0 none) ∧
    decodeTableWord 16 0x103 = some (.df3 0 0 0 0 0 0 0 0) ∧ decodeTableWord 16 0x105 = some (.df5 20 0 0 0 0 0 0 0 0 0) ∧
    decodeTableWord 16 0x102 = none ∧ decodeTableWord 16 0x003 = none := by decide

/-- A table word runs as the first instruction after reset. -/
theorem test_table_word_runs :
    (outOf (step (State.reset.withFetchWord 16 0x105))).map (fun p => (p.ok, p.variant, p.battery)) =
      some (true, 5, 1600) := by decide

/-! Primitives, from the table of 95_test_vectors.md section 2.1. -/

theorem test_recoverSigned :
    recoverSigned 0x7F = 127 ∧ recoverSigned 0x80 = 0 ∧ recoverSigned 0x85 = -5 ∧ recoverSigned 0xFF = -127 := by decide
theorem test_twosComplement16 :
    twosComplement16 0x7FFF = 32767 ∧ twosComplement16 0x8000 = -32768 ∧ twosComplement16 0xFC18 = -1000 := by decide
theorem test_df5Temp :
    df5Temp 32767 = 32767 ∧ df5Temp 32768 = -32766 ∧ df5Temp 0xFC18 = -998 ∧ df5Temp 65533 = -1 ∧
    df5Temp 65534 = 0 ∧ df5Temp 65535 = 1 := by decide
theorem test_thr128 :
    thr128 26 30 = 2630 ∧ thr128 0 255 = 255 ∧ thr128 127 100 = 12800 ∧ thr128 127 101 = -1 ∧ thr128 128 0 = 12800 ∧
    thr128 128 1 = -1 ∧ thr128 133 50 = -550 ∧ thr128 255 255 = -12955 := by decide
theorem test_dec2 : dec2 0x10 = 10 ∧ dec2 0x29 = 29 ∧ dec2 0x99 = 99 ∧ isDec2 0x9A = false ∧ isDec2 0xA9 = false := by
  decide

/-! One step on the vectors of 95_test_vectors.md. -/

theorem test_va1_df2 :
    readAfter .url va1 = some (.v2 { humidity := 81, temperature := 23, pressure := 100000, eddystoneId := none }) := by
  decide
theorem test_va4_df4 :
    readAfter .url va4 = some (.v4 { humidity := 128, temperature := 0, pressure := 82918, eddystoneId := some 130 }) := by
  decide
theorem test_vb1_df3 :
    readAfter .raw vb1 =
      some (.v3 { humidity := 29, temperature := 2630, pressure := 102766, accelerationX := -1000, accelerationY := -1726,
                  accelerationZ := 714, battery := 2899 }) := by decide
theorem test_vb15_df3_malformed : errorAfter .raw vb15 = some (.malformedEncoding 161) := by decide
theorem test_vc1_df5 :
    readAfter .raw vc1 =
      some (.v5 { temperature := 4860, humidity := 21396, pressure := 100044, accelerationX := 4, accelerationY := -4,
                  accelerationZ := 1036, battery := 2977, txPower := 4, movementCounter := 66,
                  measurementSequenceNumber := 205 }) := by decide
/-- VC4's temperature and VC11's packed power field. -/
theorem test_vc4_vc11_df5 :
    (outOf (step (asked .raw vc4))).map (fun p => (p.temperature, p.battery, p.txPower)) =
      some (0x8002, 3647, 22) := by decide

/-- VE3, VE7, VE4: the URL transport's errors in their order. -/
theorem test_url_errors :
    errorAfter .url [2, 1, 2, 3, 4, 5, 6, 7] = some (.malformedLength 8) ∧
    errorAfter .url [9, 1, 2] = some (.malformedLength 3) ∧
    errorAfter .url [3, 1, 2, 3, 4, 5] = some (.unsupportedFormat 3) := by decide
/-- VE9, VE11, VE17, VE19: the RAW transport's errors in their order. -/
theorem test_raw_errors :
    errorAfter .raw [0x99, 4] = some (.malformedLength 2) ∧
    errorAfter .raw [0x99, 4, 9] = some (.unsupportedFormat 9) ∧
    errorAfter .raw [0x99, 4, 3] = some (.malformedLength 3) ∧
    errorAfter .raw [0x99, 4, 5] = some (.malformedLength 3) := by decide

/-- VI1: an idle block with the bytes of a reading on its wires. -/
theorem test_idle :
    outOf (step { State.reset with inp := { presentTransaction (txn .raw vc1) with inValid := false } }) =
      some OutPorts.idle := by decide

/-- The written forms of S2 and VE11 (30_encoding.md R74). -/
theorem test_written :
    writtenTransaction (txn .url va4) = "URL 04 80 80 80 80 96 82".toList ∧
    writtenOutcome (.error (.unsupportedFormat 9)) = "ERR unsupported-format(9)".toList ∧
    writtenRatio 82918 100 = "829.18".toList ∧ writtenRatio (-999) 200 = "-4.995".toList := by decide

/-! The URL front end, with the general-knowledge parameters of 95_test_vectors.md program P5 (informative). The base64
function is a stand-in that knows one fragment. -/

def p5 : FrontEndParams :=
  { hostMarker := "ruu.vi".toList, pad3 := ('a', '=', '='),
    b64 := fun f => if f = "BICAgICWga==".toList then some [4, 128, 128, 128, 128, 150, 129] else none,
    emptyFragmentCounts := fun _ => false, fragmentOfSeveral := fun _ => none }

theorem test_front_end_pads :
    frontEndWith p5 "https://ruu.vi/#BICAgICWg".toList = .ok [4, 128, 128, 128, 128, 150, 129] := by decide
theorem test_front_end_errors :
    frontEndWith p5 "https://example.org/#AB".toList = .error .notARecognizedUrl ∧
    frontEndWith p5 "https://ruu.vi/".toList = .error .malformedUrl ∧
    frontEndWith p5 "https://ruu.vi/#zz".toList = .error .malformedEncoding := by decide

/-! Witnesses: a concrete case that meets all hypotheses of a statement. -/

theorem witness_DecodeInvertsEncode : WellFormed (.df5 255 1 2 3 4 5 6 7 8 9) = true := by decide

theorem witness_DecodedInstructionsAreWellFormed :
    decode .raw 20 (presentTransaction (txn .raw vc1)).pl =
      .ok (.df5 20 0x12FC 0x5394 0xC37C 0x0004 0xFFFC 0x040C 0xAC36 0x42 0x00CD) := by decide

theorem witness_EncodeGivesBackEveryByteRead :
    decode .url 7 (presentTransaction (txn .url va4)).pl = .ok (.df4 0x80 0x80 0x8096 (some 0x82)) ∧
    (6 < (7 : Len).toNat ∧ 6 < 20 ∧ 6 ≠ 3) ∧
    decode .raw 16 (presentTransaction (txn .raw vb1)).pl =
      .ok (.df3 0x29 0x1A 0x1E 0xCE1E 0xFC18 0xF942 0x02CA 0x0B53) ∧
    (15 < (16 : Len).toNat ∧ 15 < 20 ∧ 15 ≠ 0 ∧ 15 ≠ 1) := by decide

/-- Two payloads that differ at offset 3 only, on the URL transport. -/
theorem witness_UnreadBytesDoNotMatter :
    (∀ k, k < (6 : Len).toNat → k < 20 → (Transport.url = .url → k ≠ 3) →
      (Transport.url = .raw → k ≠ 0 ∧ k ≠ 1) →
      Memory.read [(0, 2), (3, 7), (5, 1)] k = Memory.read [(0, 2), (5, 1)] k) ∧
    Memory.read [(0, 2), (3, 7), (5, 1)] 3 ≠ Memory.read [(0, 2), (5, 1)] 3 := by
  have h : ∀ k, k < 6 → k ≠ 3 → Memory.read [(0, 2), (3, 7), (5, 1)] k = Memory.read [(0, 2), (5, 1)] k := by decide
  exact ⟨fun k hk _ hu _ => h k hk (hu rfl), by decide⟩

/-- Two states that present the same RAW payload but for the bytes at offsets 0 and 1. -/
theorem witness_UnreadBytesDoNotReachTheOutputs :
    let s := shown .raw [0x99, 4, 9, 1]
    let s' := shown .raw [0, 0xFF, 9, 1]
    (s.inp.inValid = s'.inp.inValid ∧ s.inp.transport = s'.inp.transport ∧ s.inp.len = s'.inp.len ∧
      s.inp.pl.read 0 ≠ s'.inp.pl.read 0 ∧ s.inp.pl.read 1 ≠ s'.inp.pl.read 1) ∧
    ∀ k, k < s.inp.len.toNat → k < 20 → (s.inp.transport = .url → k ≠ 3) →
      (s.inp.transport = .raw → k ≠ 0 ∧ k ≠ 1) → s.inp.pl.read k = s'.inp.pl.read k := by
  have h : ∀ k, k < 4 → k ≠ 0 ∧ k ≠ 1 →
      (shown .raw [0x99, 4, 9, 1]).inp.pl.read k = (shown .raw [0, 0xFF, 9, 1]).inp.pl.read k := by decide
  exact ⟨by decide, fun k hk _ _ hr => h k hk (hr rfl)⟩

theorem witness_transaction_presented : (shown .url va1).inp.inValid = true := by decide

theorem witness_Df3YieldsItsReading :
    (shown .raw vb1).inp.inValid = true ∧ (0x99 : Byte).toNat / 16 ≤ 9 ∧ (0x99 : Byte).toNat % 16 ≤ 9 := by decide

theorem witness_Df3RaisesMalformedEncoding :
    (shown .raw vb15).inp.inValid = true ∧ 9 < (0xA0 : Byte).toNat / 16 ∧ 9 < (0x0A : Byte).toNat % 16 := by decide

theorem witness_Format24Ports :
    let s := shown .url va1
    let s' := shown .url va4
    (s.inp.inValid = true ∧ s.inp.transport = .url ∧ s.inp.len = 6 ∧ s.inp.pl.read 0 = 2) ∧
    (s'.inp.inValid = true ∧ s'.inp.transport = .url ∧ s'.inp.len = 7 ∧ s'.inp.pl.read 0 = 4) := by decide

theorem witness_Format3Ports :
    let s := shown .raw vb1
    s.inp.inValid = true ∧ s.inp.transport = .raw ∧ s.inp.len = 16 ∧ s.inp.pl.read 2 = 3 ∧
      isDec2 (s.inp.pl.read 3) = true := by decide

theorem witness_Format5Ports :
    let s := shown .raw vc1
    s.inp.inValid = true ∧ s.inp.transport = .raw ∧ 20 ≤ s.inp.len.toNat ∧ s.inp.pl.read 2 = 5 := by decide

theorem witness_OperationsChangeOnlyTheOutputs :
    exec (.df2 1 2 3 none) (shown .url va1) =
      .next ((shown .url va1).drive (.reading (.v2 (fields24 1 2 3 none)))) ∧
    State.reset.inp.inValid = false := ⟨rfl, rfl⟩

theorem witness_UrlLengthIsTestedFirst :
    let s := shown .url [2, 1, 2, 3, 4]
    let s' := shown .url [2, 1, 2, 3, 4, 5, 6, 7]
    (s.inp.inValid = true ∧ s.inp.transport = .url ∧ s.inp.len.toNat < 6) ∧
    (s'.inp.inValid = true ∧ s'.inp.transport = .url ∧ 7 < s'.inp.len.toNat) := by decide

theorem witness_UrlIdentifierUnsupported :
    let s := shown .url [3, 1, 2, 3, 4, 5]
    s.inp.inValid = true ∧ s.inp.transport = .url ∧ 6 ≤ s.inp.len.toNat ∧ s.inp.len.toNat ≤ 7 ∧ s.inp.pl.read 0 ≠ 2 ∧
      s.inp.pl.read 0 ≠ 4 := by decide

/-- One state for each clause, at the boundary of its range. -/
theorem witness_RawErrorsInOrder :
    (shown .raw [0x99, 4]).inp.len.toNat < 3 ∧
    (3 ≤ (shown .raw [0x99, 4, 9]).inp.len.toNat ∧ (shown .raw [0x99, 4, 9]).inp.pl.read 2 ≠ 3 ∧
      (shown .raw [0x99, 4, 9]).inp.pl.read 2 ≠ 5) ∧
    (3 ≤ (shown .raw [0x99, 4, 3]).inp.len.toNat ∧ (shown .raw [0x99, 4, 3]).inp.pl.read 2 = 3 ∧
      (shown .raw [0x99, 4, 3]).inp.len.toNat ≠ 16) ∧
    ((shown .raw (vc1.take 19)).inp.pl.read 2 = 5 ∧ (shown .raw (vc1.take 19)).inp.len.toNat < 20) ∧
    ((shown .raw vb15).inp.len.toNat = 16 ∧ (shown .raw vb15).inp.pl.read 2 = 3 ∧
      isDec2 ((shown .raw vb15).inp.pl.read 3) = false) ∧
    (shown .raw vb15).inp.inValid = true ∧ (shown .raw vb15).inp.transport = .raw := by decide

/-- Settling answers a next state, with error code 3 in the one case that has it; the front end's own cause. -/
theorem witness_MalformedEncodingCauses :
    (outOf (settle (shown .raw vb15))).map (fun p => (p.errCode, p.errInfo)) = some (3, 161) ∧
    frontEndWith p5 "https://ruu.vi/#zz".toList = .error .malformedEncoding := by decide

/-- Error code 1 on each transport, at the ends of the lengths that allow it. -/
theorem witness_UnsupportedFormatCauses :
    (outOf (settle (shown .url [3, 1, 2, 3, 4, 5]))).map (fun p => (p.errCode, p.errInfo)) = some (1, 3) ∧
    (outOf (settle (shown .url [5, 1, 2, 3, 4, 5, 6]))).map (fun p => (p.errCode, p.errInfo)) = some (1, 5) ∧
    (outOf (settle (shown .raw [0x99, 4, 2]))).map (fun p => (p.errCode, p.errInfo)) = some (1, 2) := by decide

/-- Error code 2 in each of its cases, at the length next to a legal one. -/
theorem witness_MalformedLengthCauses :
    (outOf (settle (shown .url [2, 1, 2, 3, 4]))).map (fun p => (p.errCode, p.errInfo)) = some (2, 5) ∧
    (outOf (settle (shown .url [2, 1, 2, 3, 4, 5, 6, 7]))).map (fun p => (p.errCode, p.errInfo)) = some (2, 8) ∧
    (outOf (settle (shown .raw [0x99, 4]))).map (fun p => (p.errCode, p.errInfo)) = some (2, 2) ∧
    (outOf (settle (shown .raw (vb1.take 15)))).map (fun p => (p.errCode, p.errInfo)) = some (2, 15) ∧
    (outOf (settle (shown .raw (vc1.take 19)))).map (fun p => (p.errCode, p.errInfo)) = some (2, 19) := by decide

/-- Settling a presented transaction answers a next state. -/
theorem witness_RepeatedDecodingIsIdentical :
    (outOf (settle (shown .url va1))).isSome = true ∧
    { shown .url va1 with pending := [.ports InPorts.reset] }.inp = (shown .url va1).inp := by decide

/-- A step answers a next state with `out_valid = 1` and `ok = 1`, and one with an error code: for AbsentFieldsAreZero,
OkAgreesWithCodeAndVariant, ErrorsExposeNoField, OutValidFollowsInValid, OutputsSettleFromAnyState, ErrorCodeTable. -/
theorem witness_steps_on_presented_transactions :
    (outOf (step (asked .raw vc1))).map (fun p => (p.outValid, p.ok)) = some (true, true) ∧
    (outOf (step (asked .raw vb15))).map (fun p => (p.outValid, decide (p.errCode ≠ 0))) = some (true, true) := by decide

theorem witness_IdleInputsGiveIdleOutputs : State.reset.inp.inValid = false := rfl

/-- Two states that present the same six bytes and differ at offset 9. -/
theorem witness_OutcomeIsAFunctionOfTheInputs :
    let s : State := shown .url va1
    let s' : State := { s with inp := { s.inp with pl := Memory.write s.inp.pl 9 1 } }
    SamePresentation s.inp s'.inp ∧ s.inp.pl ≠ s'.inp.pl ∧ (outOf (settle s)).isSome = true ∧
      (outOf (settle s')).isSome = true := by
  have h : ∀ k, k < 6 → (shown .url va1).inp.pl.read k = (Memory.write (shown .url va1).inp.pl 9 1).read k := by decide
  exact ⟨⟨rfl, fun _ => ⟨rfl, rfl, fun k hk _ => h k hk⟩⟩, by decide, by decide, by decide⟩

theorem witness_TransactionsAreIndependent :
    let p := presentTransaction (txn .url va1)
    let s : State := { State.reset with pending := [.ports p] }
    let s' : State := { shown .raw vc1 with pending := [.ports p, .ports p] }
    s.pending = .ports p :: [] ∧ s'.pending = .ports p :: [.ports p] ∧ (outOf (step s)).isSome = true ∧
      (outOf (step s')).isSome = true := by decide

theorem witness_SequencesYieldTheirOutcomesInOrder :
    (asked .url va1).pending = [presentTransaction (txn .url va1)].map .ports := rfl

theorem witness_StepRunsTheDecodedInstruction :
    let u := (hostMove (asked .url va1)).1
    u.inp.inValid = true ∧ decode u.inp.transport u.inp.len u.inp.pl = .ok (.df2 0x51 0x17 0xC350 none) := by decide

theorem witness_TableWordIsFetchedAndRun : decodeTableWord 16 0x103 = some (.df3 0 0 0 0 0 0 0 0) := by decide

/-- A state that meets the invariant and whose step answers a next state: idle, with a length and a byte on its wires, and
a transaction pending. -/
theorem witness_StepKeepsPayloadsCanonicalAndOutputsSettled :
    let s : State := { asked .url va1 with inp := { InPorts.reset with len := 5, pl := [(2, 3)] } }
    s.Inv ∧ ∃ t, step s = .next t := by
  refine ⟨⟨⟨rfl, ?_⟩, fun _ => rfl, fun h => Bool.noConfusion h⟩, ⟨_, rfl⟩⟩
  intro r hr
  have : r = .ports (presentTransaction (txn .url va1)) := by simpa [asked] using hr
  subst this
  exact Memory.driveFrom_wf _ _

theorem witness_OutcomeLastsWhileTheInputsHold :
    (shown .url va1).pending = [] ∧ (outOf (step (shown .url va1))).isSome = true := by decide

theorem witness_CanonicalPayloadsAreEqualData :
    (Memory.driveFrom 0 [1, 0, 2]).wf = true ∧ Memory.wf [(0, 1), (2, 2)] = true ∧
    ∀ k, (Memory.driveFrom 0 [1, 0, 2]).read k = Memory.read [(0, 1), (2, 2)] k :=
  ⟨by decide, by decide, fun _ => rfl⟩

theorem witness_DecimalPairRule : isDec2 0x99 = true ∧ 99 < 100 := by decide

/-- Targets at the ends of their ranges. -/
theorem witness_Format24FixturesHitTheirTargets :
    (shown .url va1).inp.inValid = true ∧ 255 ≤ 255 ∧ (-127 : Int) ≤ -127 ∧ (-127 : Int) ≤ 127 ∧ 50000 ≤ 115535 ∧
      115535 ≤ 115535 := by decide

/-- Humidity 99, pressure 50000, battery 65535, temperature -12799, accelerations -32768, 32767 and 0. -/
theorem witness_Format3FixturesHitTheirTargets :
    (shown .raw vb1).inp.inValid = true ∧ 99 ≤ 99 ∧ (-12799 : Int) ≤ -12799 ∧ (-12799 : Int) ≤ 12800 ∧ 50000 ≤ 50000 ∧
      50000 ≤ 115535 ∧ 65535 ≤ 65535 ∧ (-32768 : Int) ≤ -32768 ∧ (-32768 : Int) ≤ 32767 ∧ (-32768 : Int) ≤ 32767 ∧
      (32767 : Int) ≤ 32767 ∧ (-32768 : Int) ≤ 0 ∧ (0 : Int) ≤ 32767 := by decide

/-- Humidity 65535, pressure 115535, battery 3647, sequence 65535, temperature -32766, transmit power -40. -/
theorem witness_Format5FixturesHitTheirTargets :
    (shown .raw vc1).inp.inValid = true ∧ 65535 ≤ 65535 ∧ (-32766 : Int) ≤ -32766 ∧ (-32766 : Int) ≤ 32767 ∧
      50000 ≤ 115535 ∧ 115535 ≤ 115535 ∧ 1600 ≤ 3647 ∧ 3647 ≤ 3647 ∧ 65535 ≤ 65535 ∧ (-40 : Int) ≤ -40 ∧
      (-40 : Int) ≤ 22 ∧ (-40 : Int) % 2 = 0 ∧ (-32768 : Int) ≤ -32768 ∧ (-32768 : Int) ≤ 32767 := by decide

theorem witness_FragmentFollowsTheHash :
    '#' ∉ "ruu.vi".toList ∧
    ("ruu.vi/#AB".toList = "ruu.vi/".toList ++ '#' :: 'A' :: ['B'] ∧ '#' ∉ "ruu.vi/".toList ∧ 'A' ≠ '#' ∧ '#' ∉ ['B']) := by
  decide

theorem witness_NineCharactersArePadded : "BICAgICWg".toList.length = 9 ∧ "BICAgICW".toList.length ≠ 9 := by decide

/-- The second and third clause, with the marker of `p5`; the first, with a text too short to hold it. -/
theorem witness_FrontEndChecksInOrder :
    (∃ u v, "ruu.vi/#AB".toList = u ++ p5.hostMarker ++ v) ∧
    ((∃ u v, "ruu.vi/".toList = u ++ p5.hostMarker ++ v) ∧ '#' ∉ "ruu.vi/".toList) ∧
    ¬ ∃ u v, "ruu".toList = u ++ p5.hostMarker ++ v := by
  refine ⟨⟨[], "/#AB".toList, by decide⟩, ⟨⟨[], "/".toList, by decide⟩, by decide⟩, ?_⟩
  rintro ⟨u, v, h⟩
  have := congrArg List.length h
  have h1 : "ruu".toList.length = 3 := by decide
  have h2 : p5.hostMarker.length = 6 := by decide
  simp only [List.length_append, h1, h2] at this
  omega

theorem witness_requests_to_the_entry_points :
    ({ State.reset with pending := [.advertisement [1, 2]] } : State).pending = .advertisement [1, 2] :: [] ∧
    ({ State.reset with pending := [.url "x".toList] } : State).pending = .url "x".toList :: [] := ⟨rfl, rfl⟩

end Sys2Proof.Tests
end

section
/-! The outputs are a function of what is presented (00_scope.md R6, R7): the dispatchers read only bytes that are
presented, and settling depends on a state through `in_valid` and the decoded transaction alone. -/

namespace Sys2Proof

open Sys2Proof.Machine

theorem Machine.Memory.read16_congr {pl pl' : Memory} {a : Nat} (h0 : pl.read a = pl'.read a)
    (h1 : pl.read (a + 1) = pl'.read (a + 1)) : pl.read16 a = pl'.read16 a := by
  rw [Memory.read16, Memory.read16, h0, h1]

/-- Layout L24 does not read offset 3 (30_encoding.md R72), so payloads may differ there too. -/
theorem dispatchUrl_congr {len : Len} {pl pl' : Memory}
    (h : ∀ k, k < len.toNat → k < 20 → k ≠ 3 → pl.read k = pl'.read k) :
    dispatchUrl len pl = dispatchUrl len pl' := by
  rw [dispatchUrl_eq, dispatchUrl_eq]
  by_cases hlen : len.toNat < 6 ∨ 7 < len.toNat
  · rw [if_pos hlen, if_pos hlen]
  · have hid : pl.read 0 = pl'.read 0 := h 0 (by omega) (by decide) (by decide)
    have hhum : pl.read 1 = pl'.read 1 := h 1 (by omega) (by decide) (by decide)
    have htemp : pl.read 2 = pl'.read 2 := h 2 (by omega) (by decide) (by decide)
    have hpress : pl.read16 4 = pl'.read16 4 :=
      Memory.read16_congr (h 4 (by omega) (by decide) (by decide)) (h 5 (by omega) (by decide) (by decide))
    have heid : (if len = 7 then some (pl.read 6) else none) = if len = 7 then some (pl'.read 6) else none := by
      by_cases h7 : len = 7
      · rw [h 6 (by subst h7; decide) (by decide) (by decide)]
      · rw [if_neg h7, if_neg h7]
    rw [hid, hhum, htemp, hpress, heid]

/-- The layouts L3 and L5 do not read offsets 0 and 1 (30_encoding.md R72; 44_dispatch.md R167), so payloads may differ
there too. -/
theorem dispatchRaw_congr {len : Len} {pl pl' : Memory}
    (h : ∀ k, k < len.toNat → k < 20 → 2 ≤ k → pl.read k = pl'.read k) :
    dispatchRaw len pl = dispatchRaw len pl' := by
  have byte : ∀ a, a < len.toNat ∧ a < 20 ∧ 2 ≤ a → pl.read a = pl'.read a := fun a ⟨hl, hp, h2⟩ => h a hl hp h2
  have half : ∀ a, a + 2 ≤ len.toNat ∧ a + 2 ≤ 20 ∧ 2 ≤ a → pl.read16 a = pl'.read16 a := fun a ha =>
    Memory.read16_congr (byte a (by omega)) (byte (a + 1) (by omega))
  rw [dispatchRaw_eq, dispatchRaw_eq]
  by_cases hlen : len.toNat < 3
  · rw [if_pos hlen, if_pos hlen]
  rw [if_neg hlen, if_neg hlen, byte 2 (by omega)]
  by_cases h3 : pl'.read 2 = 3
  · rw [if_pos h3, if_pos h3]
    by_cases h16 : len.toNat = 16
    · rw [byte 3 (by omega), byte 4 (by omega), byte 5 (by omega), half 6 (by omega), half 8 (by omega),
        half 10 (by omega), half 12 (by omega), half 14 (by omega)]
    · rw [if_pos h16, if_pos h16]
  · rw [if_neg h3, if_neg h3]
    by_cases h20 : len.toNat < 20
    · rw [if_pos h20, if_pos h20]
    · rw [half 3 (by omega), half 5 (by omega), half 7 (by omega), half 9 (by omega), half 11 (by omega),
        half 13 (by omega), half 15 (by omega), byte 17 (by omega), half 18 (by omega)]

theorem decode_congr {t : Transport} {len : Len} {pl pl' : Memory}
    (h : ∀ k, k < len.toNat → k < Config.plBytes → pl.read k = pl'.read k) :
    decode t len pl = decode t len pl' := by
  cases t with
  | url => exact dispatchUrl_congr fun k hl hp _ => h k hl hp
  | raw => exact dispatchRaw_congr fun k hl hp _ => h k hl hp

namespace Machine

theorem SamePresentation.decode_eq {p q : InPorts} (h : SamePresentation p q) (hv : p.inValid = true) :
    decode q.transport q.len q.pl = decode p.transport p.len p.pl := by
  obtain ⟨-, hpresented⟩ := h
  obtain ⟨htransport, hlen, hbytes⟩ := hpresented hv
  rw [← htransport, ← hlen]
  exact (decode_congr hbytes).symm

/-- The outcome an operation drives is fixed by its operands: it is the same one from every state. -/
theorem exec_drives_alike (i : Instr) : ∃ o, ∀ s, exec i s = .next (s.drive o) := by
  cases i with
  | df2 hum temp press eid => exact ⟨_, fun _ => rfl⟩
  | df4 hum temp press eid => exact ⟨_, fun _ => rfl⟩
  | df3 hum tInt tFrac press ax ay az batt =>
    by_cases hdec : isDec2 hum = true
    · exact ⟨_, fun _ => if_pos hdec⟩
    · exact ⟨.error (.malformedEncoding hum), fun _ => if_neg hdec⟩
  | df5 len temp hum press ax ay az powerInfo move seq => exact ⟨_, fun _ => rfl⟩

theorem settle_of_idle {s : State} (hv : s.inp.inValid = false) : settle s = .next s.goIdle := by
  simp [settle, hv]

theorem settle_of_decode_ok {s : State} {i : Instr} (hv : s.inp.inValid = true)
    (hd : decode s.inp.transport s.inp.len s.inp.pl = .ok i) : settle s = exec i s := by
  simp [settle, hv, hd]

theorem settle_of_decode_error {s : State} {e : DecodeError} (hv : s.inp.inValid = true)
    (hd : decode s.inp.transport s.inp.len s.inp.pl = .error (.error e)) : settle s = .next (s.raise e) := by
  simp [settle, hv, hd]

theorem State.drive_of_valid {s : State} (o : DecodeOutcome Reading) (hv : s.inp.inValid = true) :
    s.drive o = { s with out := outcomePorts o } := by
  rw [State.drive, hv, mux_valid]

/-- Settling replaces the output ports only, and by what `in_valid` and the decoded transaction say: a state that agrees
on these settles to the same ports, however else it differs. -/
theorem settle_alike {s t : State} (h : settle s = .next t) :
    ∃ ports, t = { s with out := ports } ∧
      ∀ s' : State, s'.inp.inValid = s.inp.inValid →
        (s.inp.inValid = true →
          decode s'.inp.transport s'.inp.len s'.inp.pl = decode s.inp.transport s.inp.len s.inp.pl) →
        settle s' = .next { s' with out := ports } := by
  rcases settle_next h with ⟨hv, rfl⟩ | ⟨hv, i, hi, hexec⟩ | ⟨hv, e, he, rfl⟩
  · exact ⟨OutPorts.idle, rfl, fun s' hv' _ => settle_of_idle (hv'.trans hv)⟩
  · obtain ⟨o, ho⟩ := exec_drives_alike i
    cases (ho s).symm.trans hexec
    refine ⟨outcomePorts o, State.drive_of_valid o hv, fun s' hv' hd => ?_⟩
    rw [settle_of_decode_ok (hv'.trans hv) ((hd hv).trans hi), ho, State.drive_of_valid o (hv'.trans hv)]
  · refine ⟨outcomePorts (.error e), State.drive_of_valid _ hv, fun s' hv' hd => ?_⟩
    rw [settle_of_decode_error (hv'.trans hv) ((hd hv).trans he), State.raise, State.drive_of_valid _ (hv'.trans hv)]

/-- Settles O27: the same presentation decodes alike, and what decodes alike settles to the same ports. -/
theorem outcomeIsAFunctionOfTheInputs : Obligations.OutcomeIsAFunctionOfTheInputs := by
  intro s s' t t' hsame h h'
  obtain ⟨ports, rfl, halike⟩ := settle_alike h
  have hs' : settle s' = .next { s' with out := ports } := halike s' hsame.1.symm hsame.decode_eq
  cases h'.symm.trans hs'
  rfl

/-- Settles O28: the settled state, and any other state with the same inputs, agrees with the first on everything
settling depends on. -/
theorem repeatedDecodingIsIdentical : Obligations.RepeatedDecodingIsIdentical := by
  intro s t h
  obtain ⟨ports, rfl, halike⟩ := settle_alike h
  refine ⟨halike _ rfl fun _ => rfl, fun s' t' hinp h' => ?_⟩
  have hs' : settle s' = .next { s' with out := ports } := halike s' (by rw [hinp]) fun _ => by rw [hinp]
  cases h'.symm.trans hs'
  rfl

end Machine

end Sys2Proof
end

section
/-! What stands on the output ports after a step (10_state.md section 3): the idle pattern while no transaction is
presented, else the ports of one outcome, whose flags are those of the outcome and which drive the outcome's own fields
only. -/

namespace Sys2Proof.Machine

@[simp] theorem outcomePorts_outValid (o : DecodeOutcome Reading) : (outcomePorts o).outValid = true := by
  rcases o with (_ | _ | _ | _) | _ <;> rfl

@[simp] theorem outcomePorts_ok (o : DecodeOutcome Reading) : (outcomePorts o).ok = okFlag o := by
  rcases o with (_ | _ | _ | _) | _ <;> rfl

@[simp] theorem outcomePorts_errCode (o : DecodeOutcome Reading) : (outcomePorts o).errCode = errCodeFlag o := by
  rcases o with (_ | _ | _ | _) | _ <;> rfl

@[simp] theorem outcomePorts_variant (o : DecodeOutcome Reading) : (outcomePorts o).variant = variantFlag o := by
  rcases o with (_ | _ | _ | _) | _ <;> rfl

theorem DecodeError.code_ne_zero (e : DecodeError) : e.code ≠ 0 := by
  cases e <;> simp [DecodeError.code]

theorem Reading.tag_mem (r : Reading) : r.tag = 2 ∨ r.tag = 3 ∨ r.tag = 4 ∨ r.tag = 5 := by
  cases r <;> simp [Reading.tag]

theorem okFlag_iff_errCodeFlag (o : DecodeOutcome Reading) : okFlag o = true ↔ errCodeFlag o = 0 := by
  cases o with
  | reading r => exact iff_of_true rfl rfl
  | error e => exact iff_of_false Bool.false_ne_true e.code_ne_zero

theorem okFlag_iff_variantFlag (o : DecodeOutcome Reading) :
    okFlag o = true ↔ variantFlag o = 2 ∨ variantFlag o = 3 ∨ variantFlag o = 4 ∨ variantFlag o = 5 := by
  cases o with
  | reading r => exact iff_of_true rfl r.tag_mem
  | error e => exact iff_of_false Bool.false_ne_true (by simp [variantFlag])

theorem OutPorts.idle_noFields : OutPorts.idle.NoFields := by
  simp [OutPorts.NoFields, OutPorts.idle]

theorem flagPorts_noFields (o : DecodeOutcome Reading) : (flagPorts o).NoFields :=
  OutPorts.idle_noFields

theorem outcomePorts_error_noFields (e : DecodeError) : (outcomePorts (.error e)).NoFields :=
  flagPorts_noFields (.error e)

/-- Ports that show no field show in particular none that their variant does not carry. -/
theorem OutPorts.NoFields.absentFieldsZero {p : OutPorts} (h : p.NoFields) : p.AbsentFieldsZero := by
  obtain ⟨-, -, -, hax, hay, haz, hbatt, htx, hmove, hseq, heidValid, heid⟩ := h
  exact ⟨fun _ => ⟨hax, hay, haz, hbatt, htx, hmove, hseq⟩, fun _ => ⟨htx, hmove, hseq⟩, fun _ => heidValid,
    fun _ => heid⟩

/-- A V2 or V4 reading drives no port of the motion and power fields, and `eid` only with an identifier, whatever flags
it is driven over. -/
theorem drive24_absentFieldsZero {p : OutPorts} (f : Fields24) (hp : p.NoFields) (hv : p.variant = 2 ∨ p.variant = 4) :
    (drive24 p f).AbsentFieldsZero := by
  obtain ⟨-, -, -, hax, hay, haz, hbatt, htx, hmove, hseq, -, -⟩ := hp
  refine ⟨fun _ => ⟨hax, hay, haz, hbatt, htx, hmove, hseq⟩, fun _ => ⟨htx, hmove, hseq⟩, fun h => ?_, fun h => ?_⟩
  · have hv' : (drive24 p f).variant = 2 ∨ (drive24 p f).variant = 4 := hv
    rcases hv' with hv' | hv' <;> simp [hv'] at h
  · have hnone : f.eddystoneId = none := Option.isNone_iff_eq_none.mp (Option.isSome_eq_false_iff.mp h)
    simp [drive24, hnone]

theorem drive3_absentFieldsZero {p : OutPorts} (f : Fields3) (hp : p.NoFields) (hv : p.variant = 3) :
    (drive3 p f).AbsentFieldsZero := by
  obtain ⟨-, -, -, -, -, -, -, htx, hmove, hseq, heidValid, heid⟩ := hp
  exact ⟨fun h => by simp [drive3, hv] at h, fun _ => ⟨htx, hmove, hseq⟩, fun _ => heidValid, fun _ => heid⟩

theorem drive5_absentFieldsZero {p : OutPorts} (f : Fields5) (hp : p.NoFields) (hv : p.variant = 5) :
    (drive5 p f).AbsentFieldsZero := by
  obtain ⟨-, -, -, -, -, -, -, -, -, -, heidValid, heid⟩ := hp
  exact ⟨fun h => by simp [drive5, hv] at h, fun h => by simp [drive5, hv] at h, fun _ => heidValid, fun _ => heid⟩

theorem outcomePorts_absentFieldsZero (o : DecodeOutcome Reading) : (outcomePorts o).AbsentFieldsZero := by
  rcases o with (f | f | f | f) | e
  case reading.v2 => exact drive24_absentFieldsZero f (flagPorts_noFields _) (.inl rfl)
  case reading.v4 => exact drive24_absentFieldsZero f (flagPorts_noFields _) (.inr rfl)
  case reading.v3 => exact drive3_absentFieldsZero f (flagPorts_noFields _) rfl
  case reading.v5 => exact drive5_absentFieldsZero f (flagPorts_noFields _) rfl
  case error => exact (outcomePorts_error_noFields e).absentFieldsZero

/-- What settling leaves on the output ports: the idle pattern while no transaction is presented (R28), else the ports of
an outcome (R26). -/
theorem settle_out_cases {s t : State} (h : settle s = .next t) :
    (t.inp.inValid = false ∧ t.out = OutPorts.idle) ∨ (t.inp.inValid = true ∧ ∃ o, t.out = outcomePorts o) := by
  rcases settle_next h with ⟨hv, rfl⟩ | ⟨hv, i, -, hexec⟩ | ⟨hv, e, -, rfl⟩
  · exact .inl ⟨hv, rfl⟩
  · obtain ⟨o, rfl⟩ := exec_drives hexec
    exact .inr ⟨hv, o, by rw [State.drive_out, hv, mux_valid]⟩
  · exact .inr ⟨hv, .error e, by rw [State.raise_out, hv, mux_valid]⟩

/-- The host's record touches no port, so a step leaves what settling leaves: every claim about the ports after a step is
a claim about these two patterns. -/
theorem step_out_cases {s t : State} (h : step s = .next t) :
    (t.inp.inValid = false ∧ t.out = OutPorts.idle) ∨ (t.inp.inValid = true ∧ ∃ o, t.out = outcomePorts o) := by
  obtain ⟨u, hsettle, rfl⟩ := step_next h
  rw [record_inp, record_out]
  exact settle_out_cases hsettle

/-- Settles O15: every operation only drives an outcome through the mux, which is closed while `in_valid = 0`. -/
theorem operationsChangeOnlyTheOutputs : Obligations.OperationsChangeOnlyTheOutputs := by
  intro i s t h
  obtain ⟨o, rfl⟩ := exec_drives h
  exact ⟨rfl, fun _ => rfl, rfl, rfl, fun hv => by rw [State.drive_out, hv, mux_idle]⟩

/-- Settles O22: both patterns a step can leave, the idle one and an outcome's, keep absent fields at 0. -/
theorem absentFieldsAreZero : Obligations.AbsentFieldsAreZero := by
  intro s t h
  rcases step_out_cases h with ⟨-, hidle⟩ | ⟨-, o, ho⟩
  · rw [hidle]
    exact OutPorts.idle_noFields.absentFieldsZero
  · rw [ho]
    exact outcomePorts_absentFieldsZero o

/-- Settles O23: `out_valid = 1` excludes the idle pattern, and the flags of an outcome agree. -/
theorem okAgreesWithCodeAndVariant : Obligations.OkAgreesWithCodeAndVariant := by
  intro s t h hvalid
  rcases step_out_cases h with ⟨-, hidle⟩ | ⟨-, o, ho⟩
  · rw [hidle] at hvalid
    exact absurd hvalid Bool.false_ne_true
  · rw [ho, outcomePorts_ok, outcomePorts_errCode, outcomePorts_variant]
    exact ⟨okFlag_iff_errCodeFlag o, okFlag_iff_variantFlag o⟩

/-- Settles O24: of the patterns a step can leave, only an error's has a non-zero `err_code`. -/
theorem errorsExposeNoField : Obligations.ErrorsExposeNoField := by
  intro s t h hcode
  rcases step_out_cases h with ⟨-, hidle⟩ | ⟨-, o, ho⟩
  · exact absurd (congrArg OutPorts.errCode hidle) hcode
  · rw [ho] at hcode ⊢
    cases o with
    | reading r => exact absurd (outcomePorts_errCode (.reading r)) hcode
    | error e => exact ⟨rfl, rfl, rfl, outcomePorts_error_noFields e⟩

/-- Settles O25: the idle pattern has `out_valid = 0`, the ports of every outcome have `out_valid = 1`. -/
theorem outValidFollowsInValid : Obligations.OutValidFollowsInValid := by
  intro s t h
  rcases step_out_cases h with ⟨hv, hidle⟩ | ⟨hv, o, ho⟩
  · rw [hv, hidle]
    rfl
  · rw [hv, ho, outcomePorts_outValid]

/-- Settles O26: without a transaction the block goes idle, and `out_valid` tells the idle pattern from every outcome. -/
theorem idleInputsGiveIdleOutputs : Obligations.IdleInputsGiveIdleOutputs := by
  refine ⟨fun s hv => ⟨s.goIdle, settle_of_idle hv, rfl, rfl, rfl, rfl, rfl, OutPorts.idle_noFields⟩, ?_⟩
  intro s o hv hsettle
  rw [settle_of_idle hv, Host.Outcome.next.injEq] at hsettle
  have hports : OutPorts.idle = outcomePorts o := congrArg State.out hsettle
  have hvalid : OutPorts.idle.outValid = true := by rw [hports, outcomePorts_outValid]
  exact absurd hvalid Bool.false_ne_true

end Sys2Proof.Machine
end

section
/-! The packed power field of layout L5 (30_encoding.md R70; 43_format_5.md R146, R147): the shift and the mask of one
16-bit value as division and remainder by 32. -/

namespace Sys2Proof.Machine

theorem powerBattery_eq (powerInfo : Half) : powerBattery powerInfo = powerInfo.toNat / 32 + 1600 := by
  rw [powerBattery, BitVec.toNat_ushiftRight, Nat.shiftRight_eq_div_pow]

theorem powerTx_eq (powerInfo : Half) : powerTx powerInfo = ((powerInfo.toNat % 32 : Nat) : Int) * 2 - 40 := by
  have hmask : (powerInfo &&& 0b11111).toNat = powerInfo.toNat % 32 := by
    rw [BitVec.toNat_and]
    exact Nat.and_two_pow_sub_one_eq_mod _ 5
  rw [powerTx, hmask]

/-- R70's payload-byte reading of the 11 high bits: the first byte stands at weight 256 = 8 * 32. -/
theorem Memory.read16_div_32 (m : Memory) (k : Nat) :
    (m.read16 k).toNat / 32 = (m.read k).toNat * 8 + (m.read (k + 1)).toNat / 32 := by
  have hvalue := m.read16_toNat k
  omega

/-- R70's payload-byte reading of the 5 low bits: the first byte's weight is a multiple of 32. -/
theorem Memory.read16_mod_32 (m : Memory) (k : Nat) :
    (m.read16 k).toNat % 32 = (m.read (k + 1)).toNat % 32 := by
  have hvalue := m.read16_toNat k
  omega

theorem powerBattery_bounds (powerInfo : Half) : 1600 ≤ powerBattery powerInfo ∧ powerBattery powerInfo ≤ 3647 := by
  have hlt := powerInfo.isLt
  rw [powerBattery_eq]
  omega

theorem powerTx_bounds (powerInfo : Half) : -40 ≤ powerTx powerInfo ∧ powerTx powerInfo ≤ 22 := by
  rw [powerTx_eq]
  omega

theorem powerTx_even (powerInfo : Half) : powerTx powerInfo % 2 = 0 := by
  rw [powerTx_eq]
  omega

/-- Settles O45: the split of the word, carried over to the two payload bytes it is read from. -/
theorem packedPowerRule : Obligations.PackedPowerRule := by
  intro m k
  have hbattery := powerBattery_eq (m.read16 k)
  have htx := powerTx_eq (m.read16 k)
  obtain ⟨hbatteryMin, hbatteryMax⟩ := powerBattery_bounds (m.read16 k)
  obtain ⟨htxMin, htxMax⟩ := powerTx_bounds (m.read16 k)
  exact ⟨hbattery, htx, by rw [hbattery, m.read16_div_32], by rw [htx, m.read16_mod_32],
    hbatteryMin, hbatteryMax, htxMin, htxMax, powerTx_even _⟩

end Sys2Proof.Machine
end

section
/-! Bytes that no layout reads (30_encoding.md R72; 44_dispatch.md R167) reach neither the decoded transaction nor the
output ports, and the dispatchers perform no illegal read (20_memory.md R46), so settling always goes on. -/

namespace Sys2Proof

open Sys2Proof.Machine

/-- Both transports leave their unread offsets out of what must agree (30_encoding.md R72; 44_dispatch.md R167). -/
theorem decode_congr_of_read {t : Transport} {len : Len} {pl pl' : Memory}
    (h : ∀ k, k < len.toNat → k < 20 → (t = .url → k ≠ 3) → (t = .raw → k ≠ 0 ∧ k ≠ 1) → pl.read k = pl'.read k) :
    decode t len pl = decode t len pl' := by
  cases t with
  | url => exact dispatchUrl_congr fun k hl hp h3 => h k hl hp (fun _ => h3) nofun
  | raw => exact dispatchRaw_congr fun k hl hp h2 => h k hl hp nofun fun _ => by omega

/-- Every branch of the URL dispatcher ends in an operation or in a decode error (20_memory.md R46). -/
theorem dispatchUrl_ne_illegalRead (len : Len) (pl : Memory) (offset : Nat) :
    dispatchUrl len pl ≠ .error (.illegalRead offset) := by
  rw [dispatchUrl_eq]
  split_ifs <;> nofun

/-- Every branch of the RAW dispatcher ends in an operation or in a decode error (20_memory.md R46). -/
theorem dispatchRaw_ne_illegalRead (len : Len) (pl : Memory) (offset : Nat) :
    dispatchRaw len pl ≠ .error (.illegalRead offset) := by
  rw [dispatchRaw_eq]
  split_ifs <;> nofun

theorem decode_ne_illegalRead (t : Transport) (len : Len) (pl : Memory) (offset : Nat) :
    decode t len pl ≠ .error (.illegalRead offset) := by
  cases t with
  | url => exact dispatchUrl_ne_illegalRead len pl offset
  | raw => exact dispatchRaw_ne_illegalRead len pl offset

namespace Machine

/-- Settling never faults: an operation drives an outcome, a rejected transaction raises its error. -/
theorem settle_continues (s : State) : ∃ t, settle s = .next t := by
  cases hv : s.inp.inValid with
  | false => exact ⟨_, settle_of_idle hv⟩
  | true =>
    cases hd : decode s.inp.transport s.inp.len s.inp.pl with
    | ok i =>
      obtain ⟨o, ho⟩ := exec_drives_alike i
      exact ⟨_, (settle_of_decode_ok hv hd).trans (ho s)⟩
    | error r =>
      cases r with
      | error e => exact ⟨_, settle_of_decode_error hv hd⟩
      | illegalRead offset => exact absurd hd (decode_ne_illegalRead _ _ _ offset)

/-- Settles O59: payloads that agree on the bytes read decode alike, and what decodes alike settles to the same ports. -/
theorem unreadBytesDoNotReachTheOutputs : Obligations.UnreadBytesDoNotReachTheOutputs := by
  intro s s' hvalid htransport hlen hbytes
  have hdecode : decode s'.inp.transport s'.inp.len s'.inp.pl = decode s.inp.transport s.inp.len s.inp.pl := by
    rw [← htransport, ← hlen]
    exact (decode_congr_of_read hbytes).symm
  obtain ⟨t, ht⟩ := settle_continues s
  obtain ⟨ports, rfl, halike⟩ := settle_alike ht
  exact ⟨_, _, ht, halike s' hvalid.symm fun _ => hdecode, rfl⟩

end Machine

end Sys2Proof
end

section
/-! The signed primitives (40_primitives.md R90, R91, R94, R95), each joined to the reading it stands for: sign and
magnitude, two's complement, two's complement moved up by 2 below zero, and the threshold at 128 over exact rationals. -/

namespace Sys2Proof.Machine

theorem signFlag_eq (b : Byte) : signFlag b = decide (128 ≤ b.toNat) := BitVec.getLsbD_last b

theorem magnitude_eq (b : Byte) : magnitude b = b.toNat % 128 := by
  rw [magnitude, BitVec.toNat_and]
  exact Nat.and_two_pow_sub_one_eq_mod _ 7

theorem recoverSigned_eq_refSignMagnitude (b : Byte) : recoverSigned b = refSignMagnitude b.toNat := by
  have hlt := b.isLt
  rw [recoverSigned, refSignMagnitude, signFlag_eq, magnitude_eq]
  by_cases hsign : 128 ≤ b.toNat
  · rw [if_pos (decide_eq_true hsign), if_pos hsign]
    omega
  · rw [if_neg (by simpa using hsign), if_neg hsign, Nat.mod_eq_of_lt (by omega)]

theorem recoverSigned_bounds (b : Byte) : -127 ≤ recoverSigned b ∧ recoverSigned b ≤ 127 := by
  rw [recoverSigned, magnitude_eq]
  split <;> omega

/-- The two zeros of sign and magnitude: either sign flag over magnitude 0. -/
theorem recoverSigned_eq_zero_iff (b : Byte) : recoverSigned b = 0 ↔ b = 0x00 ∨ b = 0x80 := by
  have hmagnitude : recoverSigned b = 0 ↔ magnitude b = 0 := by
    rw [recoverSigned]
    split <;> omega
  have hplus : b = 0x00 ↔ b.toNat = 0 := BitVec.toNat_eq
  have hminus : b = 0x80 ↔ b.toNat = 128 := BitVec.toNat_eq
  have hlt := b.isLt
  rw [hmagnitude, magnitude_eq, hplus, hminus]
  omega

/-- Settles O39: the sign flag has weight 128 above a 7-bit magnitude. -/
theorem recoverSignedRule : Obligations.RecoverSignedRule := by
  intro b
  obtain ⟨hmin, hmax⟩ := recoverSigned_bounds b
  exact ⟨recoverSigned_eq_refSignMagnitude b, hmin, hmax, recoverSigned_eq_zero_iff b⟩

theorem twosComplement16_eq_toInt (raw : Half) : twosComplement16 raw = raw.toInt := by
  rw [twosComplement16, BitVec.toInt_eq_toNat_cond]
  split <;> split <;> omega

theorem twosComplement16_inj {raw raw' : Half} : twosComplement16 raw = twosComplement16 raw' ↔ raw = raw' := by
  rw [twosComplement16_eq_toInt, twosComplement16_eq_toInt, BitVec.toInt_inj]

theorem twosComplement16_bounds (raw : Half) : -32768 ≤ twosComplement16 raw ∧ twosComplement16 raw ≤ 32767 := by
  have hlt := raw.isLt
  rw [twosComplement16]
  split <;> omega

theorem twosComplement16_neg_iff (raw : Half) : twosComplement16 raw < 0 ↔ raw.toNat > 32767 := by
  have hlt := raw.isLt
  rw [twosComplement16]
  split <;> omega

theorem twosComplement16_ofInt {v : Int} (hmin : -32768 ≤ v) (hmax : v ≤ 32767) :
    twosComplement16 (BitVec.ofInt 16 v) = v := by
  rw [twosComplement16_eq_toInt]
  exact BitVec.toInt_ofInt_eq_self (by decide) hmin (by omega)

theorem exists_twosComplement16_eq_iff (v : Int) :
    (∃ raw : Half, twosComplement16 raw = v) ↔ -32768 ≤ v ∧ v ≤ 32767 := by
  constructor
  · rintro ⟨raw, rfl⟩
    exact twosComplement16_bounds raw
  · rintro ⟨hmin, hmax⟩
    exact ⟨_, twosComplement16_ofInt hmin hmax⟩

/-- Settles O40: the sign extension of the pattern, which `BitVec.ofInt` inverts on the range. -/
theorem twosComplementRule : Obligations.TwosComplementRule :=
  ⟨fun raw => ⟨rfl, twosComplement16_eq_toInt raw⟩, fun _ _ => twosComplement16_inj.mp,
    exists_twosComplement16_eq_iff⟩

/-- R94's constant is 2 short of the two's complement one. -/
theorem df5Temp_of_gt {raw : Half} (h : raw.toNat > 32767) : df5Temp raw = twosComplement16 raw + 2 := by
  rw [df5Temp, twosComplement16, if_pos h, if_pos h]
  omega

theorem df5Temp_of_le {raw : Half} (h : raw.toNat ≤ 32767) : df5Temp raw = twosComplement16 raw := by
  rw [df5Temp, twosComplement16, if_neg (by omega), if_neg (by omega)]

/-- The preimages of a value, told apart by the sign of the pattern: below 0 only a negative one, above 1 only a
non-negative one, and both for 0 and 1. -/
theorem df5Temp_eq_iff (raw : Half) (v : Int) :
    df5Temp raw = v ↔ (0 ≤ v ∧ twosComplement16 raw = v) ∨ (v ≤ 1 ∧ twosComplement16 raw = v - 2) := by
  have hneg := twosComplement16_neg_iff raw
  rcases Nat.lt_or_ge 32767 raw.toNat with h | h
  · rw [df5Temp_of_gt h]
    omega
  · rw [df5Temp_of_le h]
    omega

theorem exists_df5Temp_eq_iff (v : Int) : (∃ raw : Half, df5Temp raw = v) ↔ -32766 ≤ v ∧ v ≤ 32767 := by
  simp only [df5Temp_eq_iff, exists_or, exists_and_left, exists_twosComplement16_eq_iff]
  omega

theorem df5Temp_eq_zero_iff (raw : Half) : df5Temp raw = 0 ↔ raw = 0 ∨ raw = 65534 := by
  have hzero : twosComplement16 0 = 0 := rfl
  have hsecond : twosComplement16 65534 = -2 := rfl
  rw [df5Temp_eq_iff, ← twosComplement16_inj, ← twosComplement16_inj, hzero, hsecond]
  omega

theorem df5Temp_eq_one_iff (raw : Half) : df5Temp raw = 1 ↔ raw = 1 ∨ raw = 65535 := by
  have hone : twosComplement16 1 = 1 := rfl
  have hsecond : twosComplement16 65535 = -1 := rfl
  rw [df5Temp_eq_iff, ← twosComplement16_inj, ← twosComplement16_inj, hone, hsecond]
  omega

/-- Settles O41: range and double preimages come from the bijection of R91, its negative half moved up by 2. -/
theorem df5TemperatureRule : Obligations.Df5TemperatureRule :=
  ⟨fun _ => ⟨rfl, df5Temp_of_gt⟩, exists_df5Temp_eq_iff,
    fun raw => ⟨df5Temp_eq_zero_iff raw, df5Temp_eq_one_iff raw⟩⟩

theorem t100_le (i f : Byte) : t100 i f ≤ 25755 := by
  have hi := i.isLt
  have hf := f.isLt
  rw [t100]
  omega

theorem thr128_of_le {i f : Byte} (h : t100 i f ≤ 12800) : thr128 i f = t100 i f := if_neg (by omega)

theorem thr128_of_gt {i f : Byte} (h : t100 i f > 12800) : thr128 i f = -((t100 i f : Int) - 12800) := if_pos h

/-- The two arms of R95 and their ranges. -/
theorem thr128_bounds (i f : Byte) :
    (0 ≤ thr128 i f ∧ thr128 i f ≤ 12800) ∨ (-12955 ≤ thr128 i f ∧ thr128 i f ≤ -1) := by
  have hmax := t100_le i f
  rcases Nat.lt_or_ge 12800 (t100 i f) with h | h
  · rw [thr128_of_gt h]
    omega
  · rw [thr128_of_le h]
    omega

theorem t100_div_hundred (i f : Byte) : (t100 i f : Rat) / 100 = (i.toNat : Rat) + (f.toNat : Rat) / 100 := by
  rw [t100]
  push_cast
  ring

/-- The comparison with 128 is exact in hundredths. -/
theorem combined_gt_128_iff (i f : Byte) : (i.toNat : Rat) + (f.toNat : Rat) / 100 > 128 ↔ t100 i f > 12800 := by
  rw [← t100_div_hundred, gt_iff_lt, lt_div_iff₀ (by norm_num)]
  norm_num

theorem thr128_div_hundred (i f : Byte) : (thr128 i f : Rat) / 100 = refThreshold128 i.toNat f.toNat := by
  rw [refThreshold128]
  rcases Nat.lt_or_ge 12800 (t100 i f) with h | h
  · rw [if_pos ((combined_gt_128_iff i f).mpr h), ← t100_div_hundred, thr128_of_gt h]
    push_cast
    ring
  · rw [if_neg ((combined_gt_128_iff i f).not.mpr (by omega)), ← t100_div_hundred, thr128_of_le h, Int.cast_natCast]

/-- Settles O42: in hundredths the combined value is a whole number, so the rational rule and its threshold are exact. -/
theorem thresholdTemperatureRule : Obligations.ThresholdTemperatureRule :=
  fun i f => ⟨thr128_div_hundred i f, thr128_bounds i f⟩

end Sys2Proof.Machine
end

section
/-! What a V2 or V4 reading puts on the output ports (41_format_2_4.md R109): the buses of layout L24 are wide enough for
the fields they carry, and the two identifiers of the URL transport differ in the tag alone. -/

namespace Sys2Proof.Machine

/-- A byte count fits the unsigned 16-bit bus (R103). -/
theorem drive24_humidity (p : OutPorts) (hum temp : Byte) (press : Half) (eid : Option Byte) :
    (drive24 p (fields24 hum temp press eid)).humidity.toNat = hum.toNat := by
  have hlt := hum.isLt
  exact (BitVec.toNat_ofNat hum.toNat 16).trans (Nat.mod_eq_of_lt (by omega))

/-- Whole degrees from -127 to 127 fit the two's complement 16-bit bus (R104). -/
theorem drive24_temperature (p : OutPorts) (hum temp : Byte) (press : Half) (eid : Option Byte) :
    (drive24 p (fields24 hum temp press eid)).temperature.toInt = recoverSigned temp := by
  obtain ⟨hmin, hmax⟩ := recoverSigned_bounds temp
  exact BitVec.toInt_ofInt_eq_self (n := recoverSigned temp) (by decide) (by omega) (by omega)

/-- 17 bits hold the largest pressure, 65535 + 50000 (R105). -/
theorem drive24_pressure (p : OutPorts) (hum temp : Byte) (press : Half) (eid : Option Byte) :
    (drive24 p (fields24 hum temp press eid)).pressure.toNat = press.toNat + 50000 := by
  have hlt := press.isLt
  exact (BitVec.toNat_ofNat (press.toNat + 50000) 17).trans (Nat.mod_eq_of_lt (by omega))

/-- The fields of a URL payload of 6 or 7 bytes, at the offsets of layout L24 (30_encoding.md R63). -/
def payloadFields24 (p : InPorts) : Fields24 :=
  fields24 (p.pl.read 1) (p.pl.read 2) (p.pl.read16 4) (if p.len = 7 then some (p.pl.read 6) else none)

theorem drive24_payload_eidValid (o : OutPorts) (p : InPorts) :
    (drive24 o (payloadFields24 p)).eidValid = decide (p.len = 7) := by
  simp only [drive24, payloadFields24, fields24, eidValidFlag]
  split
  · exact (decide_eq_true ‹_›).symm
  · exact (decide_eq_false ‹_›).symm

theorem drive24_payload_eid (o : OutPorts) (p : InPorts) :
    (drive24 o (payloadFields24 p)).eid = if p.len = 7 then p.pl.read 6 else 0 := by
  simp only [drive24, payloadFields24, fields24]
  split <;> rfl

/-- A legal URL transaction settles to the buses of layout L24 over the flags of a reading whose tag is the identifier
(R100, R101). -/
theorem settle_format24 {s : State} (hv : s.inp.inValid = true) (hurl : s.inp.transport = .url)
    (hlen : s.inp.len = 6 ∨ s.inp.len = 7) (hid : s.inp.pl.read 0 = 2 ∨ s.inp.pl.read 0 = 4) :
    ∃ r : Reading, r.tag.toNat = (s.inp.pl.read 0).toNat ∧
      settle s = .next { s with out := drive24 (flagPorts (.reading r)) (payloadFields24 s.inp) } := by
  have hlegal : ¬ (s.inp.len.toNat < 6 ∨ 7 < s.inp.len.toNat) := by
    rcases hlen with hlen | hlen <;> simp [hlen]
  have hdecode : decode s.inp.transport s.inp.len s.inp.pl = dispatchUrl s.inp.len s.inp.pl := by rw [hurl]; rfl
  rw [dispatchUrl_eq, if_neg hlegal] at hdecode
  rcases hid with hid | hid
  case inl =>
    rw [if_pos hid] at hdecode
    refine ⟨.v2 (payloadFields24 s.inp), by rw [hid]; rfl, (settle_of_decode_ok hv hdecode).trans ?_⟩
    exact congrArg Host.Outcome.next (State.drive_of_valid _ hv)
  case inr =>
    rw [if_neg (by rw [hid]; decide), if_pos hid] at hdecode
    refine ⟨.v4 (payloadFields24 s.inp), by rw [hid]; rfl, (settle_of_decode_ok hv hdecode).trans ?_⟩
    exact congrArg Host.Outcome.next (State.drive_of_valid _ hv)

/-- Settles O12: the buses carry the fields of layout L24 without loss, over the flags of a reading and the idle pattern's
zeros. -/
theorem format24Ports : Obligations.Format24Ports := by
  intro s hv hurl hlen hid
  obtain ⟨r, htag, hsettle⟩ := settle_format24 hv hurl hlen hid
  refine ⟨_, hsettle, rfl, rfl, rfl, rfl, htag, drive24_humidity .., drive24_temperature .., ?pressure,
    drive24_payload_eidValid .., drive24_payload_eid .., rfl, rfl, rfl, rfl, rfl, rfl, rfl⟩
  case pressure => exact (drive24_pressure ..).trans (by rw [Memory.read16_toNat])

end Sys2Proof.Machine
end

section
/-! What a V3 reading puts on the output ports (42_format_3.md R129): the buses of layout L3 are wide enough for the
fields they carry, and the accelerations and the battery pass through as the assembled 16-bit fields. -/

namespace Sys2Proof.Machine

theorem dec2_lt_hundred {b : Byte} (h : isDec2 b = true) : dec2 b < 100 := by
  have hvalue := dec2_of_isDec2 h
  simp only [isDec2, Bool.and_eq_true, decide_eq_true_eq] at h
  omega

/-- R99: driving the value of a two's complement field gives its pattern back. -/
theorem ofInt_twosComplement16 (raw : Half) : BitVec.ofInt 16 (twosComplement16 raw) = raw := by
  rw [twosComplement16_eq_toInt, BitVec.ofInt_toInt]

/-- Two decimal digits fit the unsigned 16-bit bus (R121). -/
theorem drive3_humidity (p : OutPorts) {hum : Byte} (hdec : isDec2 hum = true) (tInt tFrac : Byte)
    (press ax ay az batt : Half) :
    (drive3 p (fields3 hum tInt tFrac press ax ay az batt)).humidity.toNat = dec2 hum := by
  have hlt := dec2_lt_hundred hdec
  exact (BitVec.toNat_ofNat (dec2 hum) 16).trans (Nat.mod_eq_of_lt (by omega))

/-- Hundredths from -12955 to 12800 fit the two's complement 16-bit bus (R122). -/
theorem drive3_temperature (p : OutPorts) (hum tInt tFrac : Byte) (press ax ay az batt : Half) :
    (drive3 p (fields3 hum tInt tFrac press ax ay az batt)).temperature.toInt = thr128 tInt tFrac := by
  have hbounds := thr128_bounds tInt tFrac
  exact BitVec.toInt_ofInt_eq_self (n := thr128 tInt tFrac) (by decide) (by omega) (by omega)

/-- 17 bits hold the largest pressure, 65535 + 50000 (R123). -/
theorem drive3_pressure (p : OutPorts) (hum tInt tFrac : Byte) (press ax ay az batt : Half) :
    (drive3 p (fields3 hum tInt tFrac press ax ay az batt)).pressure.toNat = press.toNat + 50000 := by
  have hlt := press.isLt
  exact (BitVec.toNat_ofNat (press.toNat + 50000) 17).trans (Nat.mod_eq_of_lt (by omega))

/-- The battery is driven as it stands in the payload (R125). -/
theorem drive3_battery (p : OutPorts) (hum tInt tFrac : Byte) (press ax ay az batt : Half) :
    (drive3 p (fields3 hum tInt tFrac press ax ay az batt)).battery = batt :=
  (BitVec.ofNat_toNat 16 batt).trans (BitVec.setWidth_eq batt)

/-- The fields of a RAW payload of 16 bytes, at the offsets of layout L3 (30_encoding.md R64). -/
def payloadFields3 (p : InPorts) : Fields3 :=
  fields3 (p.pl.read 3) (p.pl.read 4) (p.pl.read 5) (p.pl.read16 6) (p.pl.read16 8) (p.pl.read16 10) (p.pl.read16 12)
    (p.pl.read16 14)

/-- A legal format 3 transaction with decimal humidity settles to the buses of layout L3 over the flags of a V3 reading
(R120). -/
theorem settle_format3 {s : State} (hv : s.inp.inValid = true) (hraw : s.inp.transport = .raw)
    (hlen : s.inp.len = 16) (hid : s.inp.pl.read 2 = 3) (hdec : isDec2 (s.inp.pl.read 3) = true) :
    settle s =
      .next { s with out := drive3 (flagPorts (.reading (.v3 (payloadFields3 s.inp)))) (payloadFields3 s.inp) } := by
  have hdecode : decode s.inp.transport s.inp.len s.inp.pl = dispatchRaw s.inp.len s.inp.pl := by rw [hraw]; rfl
  have h16 : s.inp.len.toNat = 16 := by rw [hlen]; rfl
  rw [dispatchRaw_eq, if_neg (by omega), if_pos hid, if_neg (not_not_intro h16)] at hdecode
  calc settle s
      = .next (s.drive (.reading (.v3 (payloadFields3 s.inp)))) :=
        (settle_of_decode_ok hv hdecode).trans (if_pos hdec)
    _ = _ := congrArg Host.Outcome.next (State.drive_of_valid _ hv)

/-- Settles O13: the buses carry the fields of layout L3 without loss, over the flags of a V3 reading and the idle
pattern's zeros. -/
theorem format3Ports : Obligations.Format3Ports := by
  intro s hv hraw hlen hid hdec
  exact ⟨_, settle_format3 hv hraw hlen hid hdec, rfl, rfl, rfl, rfl, rfl, drive3_humidity _ hdec ..,
    drive3_temperature .., drive3_pressure .., ofInt_twosComplement16 _, ofInt_twosComplement16 _,
    ofInt_twosComplement16 _, drive3_battery .., rfl, rfl, rfl, rfl, rfl⟩

end Sys2Proof.Machine
end

section
/-! What a V5 reading puts on the output ports (43_format_5.md R153): the buses of layout L5 are wide enough for the
fields they carry, so humidity, accelerations and sequence number pass through as the assembled 16-bit fields and the
other buses hold the value computed for them. -/

namespace Sys2Proof.Machine

theorem df5Temp_bounds (raw : Half) : -32766 ≤ df5Temp raw ∧ df5Temp raw ≤ 32767 :=
  (exists_df5Temp_eq_iff _).mp ⟨raw, rfl⟩

/-- An unsigned 16-bit field passes through its bus. -/
theorem ofNat_toNat_half (raw : Half) : BitVec.ofNat 16 raw.toNat = raw :=
  (BitVec.ofNat_toNat 16 raw).trans (BitVec.setWidth_eq raw)

section
variable (p : OutPorts) (temp hum press ax ay az powerInfo : Half) (move : Byte) (seq : Half)

/-- Counts of 1/200 degree from -32766 to 32767 fit the two's complement 16-bit bus (R141). -/
theorem drive5_temperature :
    (drive5 p (fields5 temp hum press ax ay az powerInfo move seq)).temperature.toInt = df5Temp temp := by
  obtain ⟨hmin, hmax⟩ := df5Temp_bounds temp
  exact BitVec.toInt_ofInt_eq_self (n := df5Temp temp) (by decide) (by omega) (by omega)

/-- 17 bits hold the largest pressure, 65535 + 50000 (R143). -/
theorem drive5_pressure :
    (drive5 p (fields5 temp hum press ax ay az powerInfo move seq)).pressure.toNat = press.toNat + 50000 := by
  have hlt := press.isLt
  exact (BitVec.toNat_ofNat (press.toNat + 50000) 17).trans (Nat.mod_eq_of_lt (by omega))

/-- Millivolts from 1600 to 3647 fit the unsigned 16-bit bus (R146). -/
theorem drive5_battery :
    (drive5 p (fields5 temp hum press ax ay az powerInfo move seq)).battery.toNat = powerInfo.toNat / 32 + 1600 := by
  obtain ⟨-, hmax⟩ := powerBattery_bounds powerInfo
  calc (BitVec.ofNat 16 (powerBattery powerInfo)).toNat
      = powerBattery powerInfo := (BitVec.toNat_ofNat _ 16).trans (Nat.mod_eq_of_lt (by omega))
    _ = powerInfo.toNat / 32 + 1600 := powerBattery_eq powerInfo

/-- Decibel-milliwatts from -40 to 22 fit the two's complement 8-bit bus (R147). -/
theorem drive5_txPower :
    (drive5 p (fields5 temp hum press ax ay az powerInfo move seq)).txPower.toInt =
      (powerInfo.toNat % 32 : Int) * 2 - 40 := by
  obtain ⟨hmin, hmax⟩ := powerTx_bounds powerInfo
  calc (BitVec.ofInt 8 (powerTx powerInfo)).toInt
      = powerTx powerInfo := BitVec.toInt_ofInt_eq_self (by decide) (by omega) (by omega)
    _ = ((powerInfo.toNat % 32 : Nat) : Int) * 2 - 40 := powerTx_eq powerInfo
    _ = (powerInfo.toNat % 32 : Int) * 2 - 40 := by rw [Int.natCast_mod]; rfl

end

/-- The fields of a RAW payload of at least 20 bytes, at the offsets of layout L5 (30_encoding.md R65). -/
def payloadFields5 (p : InPorts) : Fields5 :=
  fields5 (p.pl.read16 3) (p.pl.read16 5) (p.pl.read16 7) (p.pl.read16 9) (p.pl.read16 11) (p.pl.read16 13)
    (p.pl.read16 15) (p.pl.read 17) (p.pl.read16 18)

/-- A legal format 5 transaction, whatever its length from 20 up (R151), settles to the buses of layout L5 over the flags
of a V5 reading (R140). -/
theorem settle_format5 {s : State} (hv : s.inp.inValid = true) (hraw : s.inp.transport = .raw)
    (hlen : 20 ≤ s.inp.len.toNat) (hid : s.inp.pl.read 2 = 5) :
    settle s =
      .next { s with out := drive5 (flagPorts (.reading (.v5 (payloadFields5 s.inp)))) (payloadFields5 s.inp) } := by
  have hdecode : decode s.inp.transport s.inp.len s.inp.pl = dispatchRaw s.inp.len s.inp.pl := by rw [hraw]; rfl
  have hnot3 : s.inp.pl.read 2 ≠ 3 := by rw [hid]; decide
  rw [dispatchRaw_eq, if_neg (by omega), if_neg hnot3, if_pos hid, if_neg (by omega)] at hdecode
  calc settle s
      = .next (s.drive (.reading (.v5 (payloadFields5 s.inp)))) := settle_of_decode_ok hv hdecode
    _ = _ := congrArg Host.Outcome.next (State.drive_of_valid _ hv)

/-- Settles O14: the buses carry the fields of layout L5 without loss, over the flags of a V5 reading and the idle
pattern's zeros. -/
theorem format5Ports : Obligations.Format5Ports := by
  intro s hv hraw hlen hid
  exact ⟨_, settle_format5 hv hraw hlen hid, rfl, rfl, rfl, rfl, rfl, drive5_temperature .., ofNat_toNat_half _,
    drive5_pressure .., ofInt_twosComplement16 _, ofInt_twosComplement16 _, ofInt_twosComplement16 _,
    drive5_battery .., drive5_txPower .., rfl, ofNat_toNat_half _, rfl, rfl⟩

end Sys2Proof.Machine
end

section
/-! The repair of a URL's fragment (45_url_front_end.md R183): one equation for each branch of `repairFragment`. -/

namespace Sys2Proof.Machine

variable {c : FrontEndParams} {f : Text}

@[simp] theorem padText_length : (padText c).length = 3 := rfl

theorem repairFragment_of_length_eq_nine (hlen : f.length = 9) : repairFragment c f = f ++ padText c :=
  if_pos hlen

theorem repairFragment_of_length_ne_nine (hlen : f.length ≠ 9) : repairFragment c f = f :=
  if_neg hlen

theorem repairFragment_length_of_length_eq_nine (hlen : f.length = 9) : (repairFragment c f).length = 12 := by
  rw [repairFragment_of_length_eq_nine hlen, List.length_append, hlen, padText_length]

/-- Settles O53: a fragment of 9 characters is followed by the pad of the front end, and only such a fragment. -/
theorem nineCharactersArePadded : Obligations.NineCharactersArePadded := by
  intro c f
  constructor
  · intro hnine
    exact ⟨padText c, padText_length, repairFragment_of_length_eq_nine hnine,
      repairFragment_length_of_length_eq_nine hnine, rfl⟩
  · exact repairFragment_of_length_ne_nine

end Sys2Proof.Machine
end

section
/-! The errors the block reports (60_exceptions.md R191 to R195): one function of the input ports says which error stands
on the error ports after settling, and one equivalence per error says when it is that one and with which context. -/

namespace Sys2Proof.Machine

/-- The error an operation raises on its operands: only DF3 raises one (42_format_3.md R131). -/
def operationError : Instr → Option DecodeError
  | .df3 hum _ _ _ _ _ _ _ => if isDec2 hum then none else some (.malformedEncoding hum)
  | _ => none

/-- The error the block reports on its input ports: the dispatcher's, or that of the operation it selects. -/
def blockError (p : InPorts) : Option DecodeError :=
  if p.inValid then
    match decode p.transport p.len p.pl with
    | .ok i => operationError i
    | .error (.error e) => some e
    | .error (.illegalRead _) => none
  else none

/-- The error ports show `r`: its code and its context, and 0 on both for no error (60_exceptions.md R191, R192). -/
def ShowsError (p : OutPorts) (r : Option DecodeError) : Prop :=
  p.errCode = r.elim 0 DecodeError.code ∧ p.errInfo = r.elim 0 DecodeError.info

@[simp] theorem outcomePorts_errInfo (o : DecodeOutcome Reading) : (outcomePorts o).errInfo = errInfoFlag o := by
  rcases o with (_ | _ | _ | _) | _ <;> rfl

theorem idle_showsError : ShowsError OutPorts.idle none := ⟨rfl, rfl⟩

theorem drive_reading_showsError {s : State} (r : Reading) (hv : s.inp.inValid = true) :
    ShowsError (s.drive (.reading r)).out none := by
  rw [State.drive_out, hv, mux_valid]
  exact ⟨outcomePorts_errCode (.reading r), outcomePorts_errInfo (.reading r)⟩

theorem raise_showsError {s : State} (e : DecodeError) (hv : s.inp.inValid = true) :
    ShowsError (s.raise e).out (some e) := by
  rw [State.raise_out, hv, mux_valid]
  exact ⟨outcomePorts_errCode (.error e), outcomePorts_errInfo (.error e)⟩

theorem exec_showsError {i : Instr} {s t : State} (hv : s.inp.inValid = true) (h : exec i s = .next t) :
    ShowsError t.out (operationError i) := by
  cases i with
  | df2 hum temp press eid => exact execDf2_next h ▸ drive_reading_showsError _ hv
  | df4 hum temp press eid => exact execDf4_next h ▸ drive_reading_showsError _ hv
  | df3 hum tInt tFrac press ax ay az batt =>
    rcases execDf3_next h with ⟨hdec, rfl⟩ | ⟨hdec, rfl⟩ <;> rw [operationError, hdec]
    · exact drive_reading_showsError _ hv
    · exact raise_showsError _ hv
  | df5 len temp hum press ax ay az powerInfo move seq => exact execDf5_next h ▸ drive_reading_showsError _ hv

/-- What settling leaves on the error ports, for every input. -/
theorem settle_showsError {s t : State} (h : settle s = .next t) : ShowsError t.out (blockError s.inp) := by
  rcases settle_next h with ⟨hv, rfl⟩ | ⟨hv, i, hi, hexec⟩ | ⟨hv, e, he, rfl⟩
  · simpa [blockError, hv] using idle_showsError
  · simpa [blockError, hv, hi] using exec_showsError hv hexec
  · simpa [blockError, hv, he] using raise_showsError e hv

/-! The codes tell the errors apart, so a code on the port names its error. -/

section
variable {p : OutPorts} {r : Option DecodeError}

theorem ShowsError.errCode_eq_one_iff (h : ShowsError p r) :
    p.errCode = 1 ↔ ∃ identifier, r = some (.unsupportedFormat identifier) := by
  rw [h.1]
  rcases r with _ | _ | _ | _ <;> simp [DecodeError.code]

theorem ShowsError.errCode_eq_two_iff (h : ShowsError p r) :
    p.errCode = 2 ↔ ∃ length, r = some (.malformedLength length) := by
  rw [h.1]
  rcases r with _ | _ | _ | _ <;> simp [DecodeError.code]

theorem ShowsError.errCode_eq_three_iff (h : ShowsError p r) :
    p.errCode = 3 ↔ ∃ offending, r = some (.malformedEncoding offending) := by
  rw [h.1]
  rcases r with _ | _ | _ | _ <;> simp [DecodeError.code]

theorem ShowsError.errInfo_eq {e : DecodeError} (h : ShowsError p r) (he : r = some e) : p.errInfo = e.info := by
  rw [h.2, he]
  rfl

/-- When a code names one kind of error, and that kind is reported exactly under `cause` and with the context `context`,
the same holds of the code and the context on the ports. -/
theorem ShowsError.ports_iff {code : BitVec 3} {kind : Byte → DecodeError} {context : Byte} {cause : Prop}
    (h : ShowsError p r) (hcode : p.errCode = code ↔ ∃ b, r = some (kind b)) (hinfo : ∀ b, (kind b).info = b)
    (hreport : ∀ b, r = some (kind b) ↔ b = context ∧ cause) :
    (p.errCode = code ↔ cause) ∧ (p.errCode = code → p.errInfo = context) := by
  rw [hcode]
  refine ⟨by simp only [hreport, exists_eq_left], ?_⟩
  rintro ⟨b, hb⟩
  calc p.errInfo = b := (h.errInfo_eq hb).trans (hinfo b)
    _ = context := ((hreport b).mp hb).1

end

/-! Which error each transport reports, in the order of its checks (44_dispatch.md R161, R162; 60_exceptions.md R197). -/

section
variable {p : InPorts}

theorem blockError_of_idle (hv : p.inValid = false) : blockError p = none := by
  simp [blockError, hv]

theorem blockError_of_url (hv : p.inValid = true) (hurl : p.transport = .url) :
    blockError p =
      if p.len.toNat < 6 ∨ 7 < p.len.toNat then some (.malformedLength p.len)
      else if p.pl.read 0 = 2 ∨ p.pl.read 0 = 4 then none
      else some (.unsupportedFormat (p.pl.read 0)) := by
  rw [blockError, if_pos hv, hurl, decode, dispatchUrl_eq]
  by_cases hlen : p.len.toNat < 6 ∨ 7 < p.len.toNat
  · simp [hlen]
  by_cases h2 : p.pl.read 0 = 2
  · simp [hlen, h2, operationError]
  by_cases h4 : p.pl.read 0 = 4
  · simp [hlen, h4, operationError]
  · rw [if_neg hlen, if_neg hlen, if_neg h2, if_neg h4, if_neg (not_or.mpr ⟨h2, h4⟩)]

theorem blockError_of_raw (hv : p.inValid = true) (hraw : p.transport = .raw) :
    blockError p =
      if p.len.toNat < 3 ∨ p.pl.read 2 = 3 ∧ p.len.toNat ≠ 16 ∨ p.pl.read 2 = 5 ∧ p.len.toNat < 20 then
        some (.malformedLength p.len)
      else if p.pl.read 2 = 3 then
        if isDec2 (p.pl.read 3) then none else some (.malformedEncoding (p.pl.read 3))
      else if p.pl.read 2 = 5 then none
      else some (.unsupportedFormat (p.pl.read 2)) := by
  rw [blockError, if_pos hv, hraw, decode, dispatchRaw_eq]
  by_cases hlen : p.len.toNat < 3
  · simp [hlen]
  by_cases h3 : p.pl.read 2 = 3
  · by_cases h16 : p.len.toNat = 16 <;> simp [hlen, h3, h16, operationError]
  by_cases h5 : p.pl.read 2 = 5
  · by_cases h20 : p.len.toNat < 20 <;> simp [hlen, h5, h20, operationError]
  · rw [if_neg hlen, if_neg h3, if_neg h5, if_neg (by tauto), if_neg h3, if_neg h5]

theorem blockError_eq_unsupportedFormat_iff {identifier : Byte} :
    blockError p = some (.unsupportedFormat identifier) ↔
      identifier = p.pl.read (idOffset p.transport) ∧ p.inValid = true ∧
        ((p.transport = .url ∧ 6 ≤ p.len.toNat ∧ p.len.toNat ≤ 7 ∧ p.pl.read 0 ≠ 2 ∧ p.pl.read 0 ≠ 4) ∨
         (p.transport = .raw ∧ 3 ≤ p.len.toNat ∧ p.pl.read 2 ≠ 3 ∧ p.pl.read 2 ≠ 5)) := by
  cases hv : p.inValid with
  | false => simp [blockError_of_idle hv]
  | true =>
    cases ht : p.transport with
    | url =>
      rw [blockError_of_url hv ht]
      split_ifs <;> grind [idOffset]
    | raw =>
      rw [blockError_of_raw hv ht]
      split_ifs <;> grind [idOffset]

theorem blockError_eq_malformedLength_iff {length : Len} :
    blockError p = some (.malformedLength length) ↔
      length = p.len ∧ p.inValid = true ∧
        ((p.transport = .url ∧ (p.len.toNat < 6 ∨ 7 < p.len.toNat)) ∨
         (p.transport = .raw ∧
          (p.len.toNat < 3 ∨ (p.pl.read 2 = 3 ∧ p.len.toNat ≠ 16) ∨ (p.pl.read 2 = 5 ∧ p.len.toNat < 20)))) := by
  cases hv : p.inValid with
  | false => simp [blockError_of_idle hv]
  | true =>
    cases ht : p.transport with
    | url =>
      rw [blockError_of_url hv ht]
      split_ifs <;> grind
    | raw =>
      rw [blockError_of_raw hv ht]
      split_ifs <;> grind

/-- The bytes outside the domain of `dec2` (40_primitives.md R93). -/
theorem isDec2_eq_false_iff (b : Byte) : isDec2 b = false ↔ 9 < b.toNat / 16 ∨ 9 < b.toNat % 16 := by
  rw [isDec2, Bool.and_eq_false_iff, decide_eq_false_iff_not, decide_eq_false_iff_not, not_le, not_le]
  rfl

theorem blockError_eq_malformedEncoding_iff {offending : Byte} :
    blockError p = some (.malformedEncoding offending) ↔
      offending = p.pl.read 3 ∧ p.inValid = true ∧ p.transport = .raw ∧ p.len = 16 ∧ p.pl.read 2 = 3 ∧
        (9 < (p.pl.read 3).toNat / 16 ∨ 9 < (p.pl.read 3).toNat % 16) := by
  have h16 : p.len = 16 ↔ p.len.toNat = 16 := BitVec.toNat_inj.symm
  rw [← isDec2_eq_false_iff, h16]
  cases hv : p.inValid with
  | false => simp [blockError_of_idle hv]
  | true =>
    cases ht : p.transport with
    | url =>
      rw [blockError_of_url hv ht]
      split_ifs <;> simp
    | raw =>
      rw [blockError_of_raw hv ht]
      split_ifs <;> grind

end

/-- The front end's malformed-encoding is a failure of `B64` on the fragment it repaired (45_url_front_end.md R184). -/
theorem frontEndWith_eq_malformedEncoding_iff (c : FrontEndParams) (text : Text) :
    frontEndWith c text = .error .malformedEncoding ↔
      containsText c.hostMarker text = true ∧ ∃ f, fragment c text = some f ∧ c.b64 (repairFragment c f) = none := by
  unfold frontEndWith
  by_cases hmarker : containsText c.hostMarker text = true
  · cases hfragment : fragment c text with
    | none => simp [hmarker]
    | some f => cases hb64 : c.b64 (repairFragment c f) <;> simp [hmarker, hb64]
  · simp [hmarker]

/-- Settles O19: code 3 on the port names malformed-encoding, which the block reports for a humidity byte alone; the
front end's own cause is its check on `B64`. -/
theorem malformedEncodingCauses : Obligations.MalformedEncodingCauses := by
  refine ⟨fun s t h => ?_, frontEndWith_eq_malformedEncoding_iff⟩
  have hshows := settle_showsError h
  exact hshows.ports_iff hshows.errCode_eq_three_iff (fun _ => rfl) fun _ => blockError_eq_malformedEncoding_iff

/-- Settles O20: code 1 on the port names unsupported-format, whose context is the identifier byte. -/
theorem unsupportedFormatCauses : Obligations.UnsupportedFormatCauses := by
  intro s t h
  have hshows := settle_showsError h
  exact hshows.ports_iff hshows.errCode_eq_one_iff (fun _ => rfl) fun _ => blockError_eq_unsupportedFormat_iff

/-- Settles O21: code 2 on the port names malformed-length, whose context is `len`. -/
theorem malformedLengthCauses : Obligations.MalformedLengthCauses := by
  intro s t h
  have hshows := settle_showsError h
  exact hshows.ports_iff hshows.errCode_eq_two_iff (fun _ => rfl) fun _ => blockError_eq_malformedLength_iff

theorem errCodeFlag_le_three (o : DecodeOutcome Reading) : (errCodeFlag o).toNat ≤ 3 := by
  rcases o with _ | _ | _ | _ <;> simp [errCodeFlag, DecodeError.code]

/-- Settles O58: the codes are those of the table, and both patterns a step can leave on the ports, the idle one and an
outcome's, keep `err_code` in the block's part of it. -/
theorem errorCodeTable : Obligations.ErrorCodeTable := by
  refine ⟨fun _ => ⟨rfl, rfl, rfl⟩, rfl, rfl, rfl, fun s t h => ?_⟩
  rcases step_out_cases h with ⟨-, hidle⟩ | ⟨-, o, ho⟩
  · rw [hidle]
    exact ⟨Nat.zero_le 3, fun _ => rfl⟩
  · rw [ho, outcomePorts_errCode, outcomePorts_ok, outcomePorts_outValid]
    refine ⟨errCodeFlag_le_three o, ?_⟩
    rintro (hok | hinvalid)
    · exact (okFlag_iff_errCodeFlag o).mp hok
    · exact absurd hinvalid.symm Bool.false_ne_true

end Sys2Proof.Machine
end

section
/-! Decoding against encoding (30_encoding.md R61 to R66, R72, R73): a 16-bit field is its two payload bytes, the words of
an instruction are read back as its operands, and what the dispatchers accept is said once as an equivalence. -/

namespace Sys2Proof

open Sys2Proof.Machine

theorem highByte_append_lowByte (h : Half) : highByte h ++ lowByte h = h := by
  have hjoin : highByte h ++ lowByte h = h.extractLsb' 0 16 :=
    BitVec.extractLsb'_append_extractLsb'_eq_extractLsb' rfl
  rw [hjoin, BitVec.extractLsb'_eq_self]

theorem highByte_append (hi lo : Byte) : highByte (hi ++ lo) = hi :=
  BitVec.extractLsb'_append_eq_left

theorem lowByte_append (hi lo : Byte) : lowByte (hi ++ lo) = lo :=
  BitVec.extractLsb'_append_eq_right

theorem halfBytes_read16 (pl : Memory) (k : Nat) : halfBytes (pl.read16 k) = [pl.read k, pl.read (k + 1)] := by
  rw [halfBytes, Memory.read16, highByte_append, lowByte_append]

/-- A presented byte of a payload driven from offset 0 on. -/
theorem read_driveFrom_zero (bs : List Byte) {k : Nat} (hk : k < Config.plBytes) :
    (Memory.driveFrom 0 bs).read k = bs.getD k 0 := by
  rw [Memory.read_driveFrom 0 bs k hk, if_pos (Nat.zero_le k), Nat.sub_zero]

/-- Where the two bytes of a field were driven, the field is read (20_memory.md R43). -/
theorem read16_driveFrom_zero {bs : List Byte} {h : Half} {k : Nat} (hk : k + 1 < Config.plBytes)
    (hhigh : bs.getD k 0 = highByte h) (hlow : bs.getD (k + 1) 0 = lowByte h) :
    (Memory.driveFrom 0 bs).read16 k = h := by
  rw [Memory.read16, read_driveFrom_zero bs (by omega), read_driveFrom_zero bs hk, hhigh, hlow,
    highByte_append_lowByte]

/-- What the URL dispatcher accepts, and as which operation (44_dispatch.md R161). -/
theorem dispatchUrl_eq_ok_iff {len : Len} {pl : Memory} {i : Instr} :
    dispatchUrl len pl = .ok i ↔
      (6 ≤ len.toNat ∧ len.toNat ≤ 7) ∧
        (pl.read 0 = 2 ∧ i = .df2 (pl.read 1) (pl.read 2) (pl.read16 4) (if len = 7 then some (pl.read 6) else none) ∨
         pl.read 0 = 4 ∧ i = .df4 (pl.read 1) (pl.read 2) (pl.read16 4) (if len = 7 then some (pl.read 6) else none)) := by
  rw [dispatchUrl_eq]
  by_cases hlen : len.toNat < 6 ∨ 7 < len.toNat
  · rw [if_pos hlen]
    exact iff_of_false nofun (by omega)
  rw [if_neg hlen]
  by_cases h2 : pl.read 0 = 2
  · grind
  by_cases h4 : pl.read 0 = 4
  · grind
  · simp only [h2, h4, if_false, false_and, or_false, and_false, reduceCtorEq]

/-- What the RAW dispatcher accepts, and as which operation (44_dispatch.md R162). -/
theorem dispatchRaw_eq_ok_iff {len : Len} {pl : Memory} {i : Instr} :
    dispatchRaw len pl = .ok i ↔
      pl.read 2 = 3 ∧ len.toNat = 16 ∧
          i = .df3 (pl.read 3) (pl.read 4) (pl.read 5) (pl.read16 6) (pl.read16 8) (pl.read16 10) (pl.read16 12)
            (pl.read16 14) ∨
        pl.read 2 = 5 ∧ 20 ≤ len.toNat ∧
          i = .df5 len (pl.read16 3) (pl.read16 5) (pl.read16 7) (pl.read16 9) (pl.read16 11) (pl.read16 13)
            (pl.read16 15) (pl.read 17) (pl.read16 18) := by
  rw [dispatchRaw_eq]
  by_cases hlen : len.toNat < 3
  · rw [if_pos hlen]
    exact iff_of_false nofun (by omega)
  rw [if_neg hlen]
  by_cases h3 : pl.read 2 = 3
  · grind
  by_cases h5 : pl.read 2 = 5
  · grind
  · simp only [h3, h5, if_false, false_and, or_false, reduceCtorEq]

/-- The words of layout L24 carry its identifier and operands (Table 30-2). -/
theorem read_encodeL24 (id hum temp : Byte) (press : Half) (eid : Option Byte) :
    let x := encodeL24 id hum temp press eid
    let pl := Memory.driveFrom 0 x.bytes
    x.transport = .url ∧ (6 ≤ x.len.toNat ∧ x.len.toNat ≤ 7) ∧ pl.read 0 = id ∧ pl.read 1 = hum ∧
      pl.read 2 = temp ∧ pl.read16 4 = press ∧ (if x.len = 7 then some (pl.read 6) else none) = eid := by
  cases eid with
  | none =>
    exact ⟨rfl, ⟨Nat.le_refl 6, Nat.le_succ 6⟩, read_driveFrom_zero _ (by decide), read_driveFrom_zero _ (by decide),
      read_driveFrom_zero _ (by decide), read16_driveFrom_zero (by decide) rfl rfl, rfl⟩
  | some e =>
    exact ⟨rfl, ⟨Nat.le_succ 6, Nat.le_refl 7⟩, read_driveFrom_zero _ (by decide), read_driveFrom_zero _ (by decide),
      read_driveFrom_zero _ (by decide), read16_driveFrom_zero (by decide) rfl rfl,
      congrArg some (read_driveFrom_zero _ (by decide))⟩

theorem decode_encode_df2 (hum temp : Byte) (press : Half) (eid : Option Byte) :
    decodeTransaction (encode (.df2 hum temp press eid)) = .ok (.df2 hum temp press eid) := by
  obtain ⟨hurl, hlen, hid, hhum, htemp, hpress, heid⟩ := read_encodeL24 2 hum temp press eid
  rw [encode, decodeTransaction, hurl]
  exact dispatchUrl_eq_ok_iff.mpr ⟨hlen, .inl ⟨hid, by rw [hhum, htemp, hpress, heid]⟩⟩

theorem decode_encode_df4 (hum temp : Byte) (press : Half) (eid : Option Byte) :
    decodeTransaction (encode (.df4 hum temp press eid)) = .ok (.df4 hum temp press eid) := by
  obtain ⟨hurl, hlen, hid, hhum, htemp, hpress, heid⟩ := read_encodeL24 4 hum temp press eid
  rw [encode, decodeTransaction, hurl]
  exact dispatchUrl_eq_ok_iff.mpr ⟨hlen, .inr ⟨hid, by rw [hhum, htemp, hpress, heid]⟩⟩

theorem decode_encode_df3 (hum tInt tFrac : Byte) (press ax ay az batt : Half) :
    decodeTransaction (encode (.df3 hum tInt tFrac press ax ay az batt)) =
      .ok (.df3 hum tInt tFrac press ax ay az batt) := by
  rw [encode, decodeTransaction, decode, dispatchRaw_eq_ok_iff]
  simp only [halfBytes, List.cons_append, List.nil_append]
  refine .inl ⟨read_driveFrom_zero _ (by decide), rfl, Eq.symm ?_⟩
  rw [Instr.df3.injEq]
  exact ⟨read_driveFrom_zero _ (by decide), read_driveFrom_zero _ (by decide), read_driveFrom_zero _ (by decide),
    read16_driveFrom_zero (by decide) rfl rfl, read16_driveFrom_zero (by decide) rfl rfl,
    read16_driveFrom_zero (by decide) rfl rfl, read16_driveFrom_zero (by decide) rfl rfl,
    read16_driveFrom_zero (by decide) rfl rfl⟩

theorem decode_encode_df5 {len : Len} (hlen : 20 ≤ len.toNat) (temp hum press ax ay az powerInfo : Half) (move : Byte)
    (seq : Half) :
    decodeTransaction (encode (.df5 len temp hum press ax ay az powerInfo move seq)) =
      .ok (.df5 len temp hum press ax ay az powerInfo move seq) := by
  rw [encode, decodeTransaction, decode, dispatchRaw_eq_ok_iff]
  simp only [halfBytes, List.cons_append, List.nil_append]
  refine .inr ⟨read_driveFrom_zero _ (by decide), hlen, Eq.symm ?_⟩
  rw [Instr.df5.injEq]
  exact ⟨rfl, read16_driveFrom_zero (by decide) rfl rfl, read16_driveFrom_zero (by decide) rfl rfl,
    read16_driveFrom_zero (by decide) rfl rfl, read16_driveFrom_zero (by decide) rfl rfl,
    read16_driveFrom_zero (by decide) rfl rfl, read16_driveFrom_zero (by decide) rfl rfl,
    read16_driveFrom_zero (by decide) rfl rfl, read_driveFrom_zero _ (by decide),
    read16_driveFrom_zero (by decide) rfl rfl⟩

/-- Settles O1, one layout at a time: the dispatcher's tests hold of the words, and each operand is read where it was
written. -/
theorem decodeInvertsEncode : Obligations.DecodeInvertsEncode := by
  intro i hwf
  cases i with
  | df2 hum temp press eid => exact decode_encode_df2 hum temp press eid
  | df4 hum temp press eid => exact decode_encode_df4 hum temp press eid
  | df3 hum tInt tFrac press ax ay az batt => exact decode_encode_df3 hum tInt tFrac press ax ay az batt
  | df5 len temp hum press ax ay az powerInfo move seq =>
    exact decode_encode_df5 (of_decide_eq_true hwf) temp hum press ax ay az powerInfo move seq

theorem wellFormed_of_decode_ok {t : Transport} {len : Len} {pl : Memory} {i : Instr} (h : decode t len pl = .ok i) :
    WellFormed i = true := by
  cases t with
  | url =>
    obtain ⟨-, ⟨-, rfl⟩ | ⟨-, rfl⟩⟩ := dispatchUrl_eq_ok_iff.mp h <;> rfl
  | raw =>
    obtain ⟨-, -, rfl⟩ | ⟨-, hlen, rfl⟩ := dispatchRaw_eq_ok_iff.mp h
    · rfl
    · exact decide_eq_true hlen

/-- Settles O2: the dispatcher asks for DF5 only with a length of at least 20. -/
theorem decodedInstructionsAreWellFormed : Obligations.DecodedInstructionsAreWellFormed :=
  fun _ _ _ _ => wellFormed_of_decode_ok

theorem dispatchKey_url_toNat (id : Byte) : (dispatchKey .url id).toNat = id.toNat := by
  rw [dispatchKey, BitVec.toNat_append]
  exact Nat.zero_or id.toNat

theorem dispatchKey_raw_toNat (id : Byte) : (dispatchKey .raw id).toNat = 256 + id.toNat := by
  rw [dispatchKey, BitVec.toNat_append]
  exact (Nat.two_pow_add_eq_or_of_lt id.isLt 1).symm

/-- Transport and identifier can be read off the key (30_encoding.md R61). -/
theorem dispatchKey_inj {t t' : Transport} {id id' : Byte} :
    dispatchKey t id = dispatchKey t' id' ↔ t = t' ∧ id = id' := by
  have hlt := id.isLt
  have hlt' := id'.isLt
  rw [← BitVec.toNat_inj, ← BitVec.toNat_inj (x := id)]
  match t, t' with
  | .url, .url => simp [dispatchKey_url_toNat]
  | .raw, .raw => simp [dispatchKey_raw_toNat]
  | .url, .raw =>
    rw [dispatchKey_url_toNat, dispatchKey_raw_toNat]
    exact iff_of_false (by omega) nofun
  | .raw, .url =>
    rw [dispatchKey_url_toNat, dispatchKey_raw_toNat]
    exact iff_of_false (by omega) nofun

/-- The keys of Table 30-1 as transport and identifier. -/
theorem legalLength_dispatchKey (t : Transport) (id : Byte) (len : Nat) :
    legalLength (dispatchKey t id) len = true ↔
      t = .url ∧ (id = 2 ∨ id = 4) ∧ (len = 6 ∨ len = 7) ∨
        t = .raw ∧ (id = 3 ∧ len = 16 ∨ id = 5 ∧ 20 ≤ len) := by
  have h2 : dispatchKey t id = 0x002 ↔ t = .url ∧ id = 2 := dispatchKey_inj (t' := .url) (id' := 2)
  have h4 : dispatchKey t id = 0x004 ↔ t = .url ∧ id = 4 := dispatchKey_inj (t' := .url) (id' := 4)
  have h3 : dispatchKey t id = 0x103 ↔ t = .raw ∧ id = 3 := dispatchKey_inj (t' := .raw) (id' := 3)
  have h5 : dispatchKey t id = 0x105 ↔ t = .raw ∧ id = 5 := dispatchKey_inj (t' := .raw) (id' := 5)
  simp only [legalLength, h2, h4, h3, h5]
  cases t with
  | url => by_cases hid : id = 2 ∨ id = 4 <;> grind
  | raw =>
    by_cases hid3 : id = 3
    · grind
    · by_cases hid5 : id = 5 <;> grind

theorem exists_decode_ok_iff (t : Transport) (len : Len) (pl : Memory) :
    (∃ i, decode t len pl = .ok i) ↔ legalLength (dispatchKey t (pl.read (idOffset t))) len.toNat = true := by
  rw [legalLength_dispatchKey]
  cases t with
  | url =>
    have hlen : 6 ≤ len.toNat ∧ len.toNat ≤ 7 ↔ len.toNat = 6 ∨ len.toNat = 7 := by omega
    simp [decode, dispatchUrl_eq_ok_iff, hlen, exists_or, idOffset, and_comm]
  | raw => simp [decode, dispatchRaw_eq_ok_iff, exists_or, idOffset]

theorem keyOf_of_decode_ok {t : Transport} {len : Len} {pl : Memory} {i : Instr} (h : decode t len pl = .ok i) :
    keyOf i = dispatchKey t (pl.read (idOffset t)) := by
  cases t with
  | url =>
    obtain ⟨-, ⟨hid, rfl⟩ | ⟨hid, rfl⟩⟩ := dispatchUrl_eq_ok_iff.mp h <;> rw [idOffset, hid] <;> rfl
  | raw =>
    obtain ⟨hid, -, rfl⟩ | ⟨hid, -, rfl⟩ := dispatchRaw_eq_ok_iff.mp h <;> rw [idOffset, hid] <;> rfl

/-- Settles O3: the dispatchers' conditions are those of Table 30-1 under the key. -/
theorem operationIsSelectedByKeyAndLength : Obligations.OperationIsSelectedByKeyAndLength :=
  fun t len pl => ⟨exists_decode_ok_iff t len pl, fun _ => keyOf_of_decode_ok⟩

/-- The offsets no layout of a transport reads (30_encoding.md R72; 44_dispatch.md R167). -/
def unreadOffset : Transport → Nat → Bool
  | .url, k => k = 3
  | .raw, k => k < 2

/-- The first `n` bytes of a payload with 0 on the unread ones, as the encoder writes them (log 15). -/
def readBytes (t : Transport) (n : Nat) (pl : Memory) : List Byte :=
  (List.range n).map fun k => if unreadOffset t k then 0 else pl.read k

theorem readBytes_getElem? {t : Transport} {n k : Nat} (pl : Memory) (hk : k < n) (hread : unreadOffset t k = false) :
    (readBytes t n pl)[k]? = some (pl.read k) := by
  simp [readBytes, hk, hread]

theorem encodeL24_readBytes {len : Len} (pl : Memory) (h : 6 ≤ len.toNat ∧ len.toNat ≤ 7) :
    encodeL24 (pl.read 0) (pl.read 1) (pl.read 2) (pl.read16 4) (if len = 7 then some (pl.read 6) else none) =
      ⟨.url, len, readBytes .url (min len.toNat 20) pl⟩ := by
  obtain hlen | hlen : len = 6 ∨ len = 7 := by
    rw [BitVec.toNat_eq, BitVec.toNat_eq]
    change len.toNat = 6 ∨ len.toNat = 7
    omega
  all_goals
    subst hlen
    simp only [encodeL24, if_true, halfBytes_read16]
    rfl

/-- The words of what was decoded, in terms of the payload it was decoded from. -/
theorem encode_of_decode_ok {t : Transport} {len : Len} {pl : Memory} {i : Instr} (h : decode t len pl = .ok i) :
    encode i = ⟨t, len, readBytes t (min len.toNat 20) pl⟩ := by
  cases t with
  | url =>
    obtain ⟨hlen, ⟨hid, rfl⟩ | ⟨hid, rfl⟩⟩ := dispatchUrl_eq_ok_iff.mp h
    all_goals rw [encode, ← hid, encodeL24_readBytes pl hlen]
  | raw =>
    obtain ⟨hid, hlen, rfl⟩ | ⟨hid, hlen, rfl⟩ := dispatchRaw_eq_ok_iff.mp h
    · obtain rfl : len = 16 := BitVec.eq_of_toNat_eq hlen
      simp only [encode, ← hid, halfBytes_read16]
      rfl
    · rw [min_eq_right hlen]
      simp only [encode, ← hid, halfBytes_read16]
      rfl

/-- Settles O4: the words of what was decoded are the payload's bytes but for the unread ones. -/
theorem encodeGivesBackEveryByteRead : Obligations.EncodeGivesBackEveryByteRead := by
  intro t len pl i h
  rw [encode_of_decode_ok h]
  refine ⟨rfl, rfl, fun k hlen hpl hurl hraw => readBytes_getElem? pl (by omega) ?_⟩
  cases t with
  | url => exact decide_eq_false (hurl rfl)
  | raw =>
    have hk := hraw rfl
    exact decide_eq_false (by omega)

/-- Settles O5. -/
theorem unreadBytesDoNotMatter : Obligations.UnreadBytesDoNotMatter :=
  fun _ _ _ _ => decode_congr_of_read

/-- Settles O6: four closed evaluations of the decoder. -/
theorem sampleWordsDecode : Obligations.SampleWordsDecode :=
  ⟨by decide, by decide, by decide, by decide⟩

end Sys2Proof
end

section
/-! What a consumer reads off the ports of an operation (10_state.md R27, R33; 41_format_2_4.md R100, R101; 42_format_3.md
R120; 43_format_5.md R140): each operation drives one outcome, its ports form a legal pattern, and the reading or error on
them is the one that was driven. -/

namespace Sys2Proof.Machine

/-- The outcome an operation drives, from its operands alone. -/
def operationOutcome : Instr → DecodeOutcome Reading
  | .df2 hum temp press eid => .reading (.v2 (fields24 hum temp press eid))
  | .df4 hum temp press eid => .reading (.v4 (fields24 hum temp press eid))
  | .df3 hum tInt tFrac press ax ay az batt =>
    if isDec2 hum then .reading (.v3 (fields3 hum tInt tFrac press ax ay az batt)) else .error (.malformedEncoding hum)
  | .df5 _ temp hum press ax ay az powerInfo move seq =>
    .reading (.v5 (fields5 temp hum press ax ay az powerInfo move seq))

theorem exec_eq_drive (i : Instr) (s : State) : exec i s = .next (s.drive (operationOutcome i)) := by
  cases i with
  | df2 hum temp press eid => rfl
  | df4 hum temp press eid => rfl
  | df3 hum tInt tFrac press ax ay az batt =>
    rw [exec, execDf3, operationOutcome]
    split <;> rfl
  | df5 len temp hum press ax ay az powerInfo move seq => rfl

theorem exec_of_valid {s : State} (i : Instr) (hv : s.inp.inValid = true) :
    exec i s = .next { s with out := outcomePorts (operationOutcome i) } := by
  rw [exec_eq_drive, State.drive_of_valid _ hv]

/-- The fields a consumer takes off the ports of a V2 or V4 reading. -/
def OutPorts.toFields24 (p : OutPorts) : Fields24 :=
  { humidity := p.humidity.toNat, temperature := p.temperature.toInt, pressure := p.pressure.toNat,
    eddystoneId := if p.eidValid then some p.eid else none }

/-- The fields a consumer takes off the ports of a V3 reading. -/
def OutPorts.toFields3 (p : OutPorts) : Fields3 :=
  { humidity := p.humidity.toNat, temperature := p.temperature.toInt, pressure := p.pressure.toNat,
    accelerationX := p.accelX.toInt, accelerationY := p.accelY.toInt, accelerationZ := p.accelZ.toInt,
    battery := p.battery.toNat }

/-- The fields a consumer takes off the ports of a V5 reading. -/
def OutPorts.toFields5 (p : OutPorts) : Fields5 :=
  { temperature := p.temperature.toInt, humidity := p.humidity.toNat, pressure := p.pressure.toNat,
    accelerationX := p.accelX.toInt, accelerationY := p.accelY.toInt, accelerationZ := p.accelZ.toInt,
    battery := p.battery.toNat, txPower := p.txPower.toInt, movementCounter := p.movement,
    measurementSequenceNumber := p.seq.toNat }

theorem observedReading_v2 (f : Fields24) :
    observedReading (outcomePorts (.reading (.v2 f))) =
      some (.v2 (drive24 (flagPorts (.reading (.v2 f))) f).toFields24) := rfl

theorem observedReading_v4 (f : Fields24) :
    observedReading (outcomePorts (.reading (.v4 f))) =
      some (.v4 (drive24 (flagPorts (.reading (.v4 f))) f).toFields24) := rfl

theorem observedReading_v3 (f : Fields3) :
    observedReading (outcomePorts (.reading (.v3 f))) =
      some (.v3 (drive3 (flagPorts (.reading (.v3 f))) f).toFields3) := rfl

theorem observedReading_v5 (f : Fields5) :
    observedReading (outcomePorts (.reading (.v5 f))) =
      some (.v5 (drive5 (flagPorts (.reading (.v5 f))) f).toFields5) := rfl

/-- An absent identifier is told from the identifier 0 by `eid_valid` (R106). -/
theorem drive24_eid (p : OutPorts) (f : Fields24) :
    (if (drive24 p f).eidValid then some (drive24 p f).eid else none) = f.eddystoneId := by
  cases h : f.eddystoneId <;> simp [drive24, eidValidFlag, h]

theorem toInt_ofInt_twosComplement16 (raw : Half) :
    (BitVec.ofInt 16 (twosComplement16 raw)).toInt = twosComplement16 raw := by
  rw [ofInt_twosComplement16, twosComplement16_eq_toInt]

/-- The buses of layout L24 lose nothing of the fields. -/
theorem toFields24_drive24 (p : OutPorts) (hum temp : Byte) (press : Half) (eid : Option Byte) :
    (drive24 p (fields24 hum temp press eid)).toFields24 = fields24 hum temp press eid := by
  rw [OutPorts.toFields24, drive24_humidity, drive24_temperature, drive24_pressure, drive24_eid]
  rfl

/-- The buses of layout L3 lose nothing of the fields while the humidity is decimal. -/
theorem toFields3_drive3 (p : OutPorts) {hum : Byte} (hdec : isDec2 hum = true) (tInt tFrac : Byte)
    (press ax ay az batt : Half) :
    (drive3 p (fields3 hum tInt tFrac press ax ay az batt)).toFields3 = fields3 hum tInt tFrac press ax ay az batt := by
  rw [OutPorts.toFields3, drive3_humidity p hdec, drive3_temperature, drive3_pressure, drive3_battery]
  simp only [drive3, fields3, toInt_ofInt_twosComplement16, pressureOf]

/-- The buses of layout L5 lose nothing of the fields. -/
theorem toFields5_drive5 (p : OutPorts) (temp hum press ax ay az powerInfo : Half) (move : Byte) (seq : Half) :
    (drive5 p (fields5 temp hum press ax ay az powerInfo move seq)).toFields5 =
      fields5 temp hum press ax ay az powerInfo move seq := by
  rw [OutPorts.toFields5, drive5_temperature, drive5_pressure, drive5_battery, drive5_txPower]
  simp only [drive5, fields5, toInt_ofInt_twosComplement16, ofNat_toNat_half, pressureOf, powerBattery_eq, powerTx_eq,
    Int.natCast_mod, Nat.cast_ofNat]

/-- An outcome with the exact rationals its reading stands for (10_state.md R33). -/
def DecodeOutcome.value : DecodeOutcome Reading → DecodeOutcome DecodedReading
  | .reading r => .reading r.value
  | .error e => .error e

theorem observe_reading {r : Reading} (h : observedReading (outcomePorts (.reading r)) = some r) :
    observe (outcomePorts (.reading r)) = some (.reading r.value) := by
  rw [observe, outcomePorts_outValid, if_pos rfl, outcomePorts_ok, okFlag, if_pos rfl, h, Option.map_some]

theorem observe_error (e : DecodeError) : observe (outcomePorts (.error e)) = some (.error e) := by
  cases e <;> rfl

/-- A consumer reads off the ports of every operation exactly the outcome it drove. -/
theorem observe_operationOutcome (i : Instr) :
    observe (outcomePorts (operationOutcome i)) = some (operationOutcome i).value := by
  cases i with
  | df2 hum temp press eid => exact observe_reading (by rw [observedReading_v2, toFields24_drive24])
  | df4 hum temp press eid => exact observe_reading (by rw [observedReading_v4, toFields24_drive24])
  | df3 hum tInt tFrac press ax ay az batt =>
    rw [operationOutcome]
    split
    · exact observe_reading (by rw [observedReading_v3, toFields3_drive3 _ ‹_›])
    · exact observe_error _
  | df5 len temp hum press ax ay az powerInfo move seq =>
    exact observe_reading (by rw [observedReading_v5, toFields5_drive5])

/-- Every outcome stands on the ports as a complete reading or as an error without fields. -/
theorem outcomePorts_legal (o : DecodeOutcome Reading) : (outcomePorts o).Legal := by
  cases o with
  | reading r =>
    exact .inr (.inl ⟨outcomePorts_outValid _, outcomePorts_ok _, outcomePorts_errCode _, outcomePorts_errInfo _,
      outcomePorts_variant (.reading r) ▸ r.tag_mem, outcomePorts_absentFieldsZero _⟩)
  | error e =>
    have hcode : e.code = 1 ∨ e.code = 2 ∨ e.code = 3 := by cases e <;> simp [DecodeError.code]
    exact .inr (.inr ⟨rfl, rfl, hcode, rfl, outcomePorts_error_noFields e⟩)

/-- An operation that drives a reading completes while a transaction is presented, and a consumer reads its value. -/
theorem exec_yields_reading {i : Instr} {s : State} {r : Reading} {v : DecodedReading} (hv : s.inp.inValid = true)
    (hi : operationOutcome i = .reading r) (hvalue : r.value = v) :
    ∃ t, exec i s = .next t ∧
      t.inp = s.inp ∧ t.pending = s.pending ∧ t.results = s.results ∧ t.out.outValid = true ∧ t.out.Legal ∧
      observe t.out = some (.reading v) := by
  have hobserve := observe_operationOutcome i
  rw [hi, DecodeOutcome.value, hvalue] at hobserve
  refine ⟨_, exec_of_valid i hv, rfl, rfl, rfl, outcomePorts_outValid _, outcomePorts_legal _, ?_⟩
  rw [hi]
  exact hobserve

/-! The values of the readings, in the reference's terms. -/

theorem value_v2 (hum temp : Byte) (press : Half) (eid : Option Byte) :
    (Reading.v2 (fields24 hum temp press eid)).value =
      .v2 ((hum.toNat : Rat) / 2) (refSignMagnitude temp.toNat) (((press.toNat : Rat) + 50000) / 100) eid := by
  simp only [Reading.value, fields24, recoverSigned_eq_refSignMagnitude, pressureOf, Nat.cast_add, Nat.cast_ofNat]

theorem value_v4 (hum temp : Byte) (press : Half) (eid : Option Byte) :
    (Reading.v4 (fields24 hum temp press eid)).value =
      .v4 ((hum.toNat : Rat) / 2) (refSignMagnitude temp.toNat) (((press.toNat : Rat) + 50000) / 100) eid := by
  simp only [Reading.value, fields24, recoverSigned_eq_refSignMagnitude, pressureOf, Nat.cast_add, Nat.cast_ofNat]

theorem value_v3 {hum : Byte} (hdec : isDec2 hum = true) (tInt tFrac : Byte) (press ax ay az batt : Half) :
    (Reading.v3 (fields3 hum tInt tFrac press ax ay az batt)).value =
      .v3 (((10 * (hum.toNat / 16) + hum.toNat % 16 : Nat) : Rat) / 2) (refThreshold128 tInt.toNat tFrac.toNat)
        (press.toNat + 50000) ax.toInt ay.toInt az.toInt batt.toNat := by
  simp only [Reading.value, fields3, dec2_of_isDec2 hdec, thr128_div_hundred, twosComplement16_eq_toInt, pressureOf,
    highNibble, lowNibble]

/-- R94's rule over the denominator 200 is the reference's (R141). -/
theorem df5Temp_div (raw : Half) : (df5Temp raw : Rat) / 200 = refTemperature5 raw.toNat := by
  rw [df5Temp, refTemperature5]
  split
  · push_cast
    rfl
  · rw [Int.cast_natCast]

theorem value_v5 (temp hum press ax ay az powerInfo : Half) (move : Byte) (seq : Half) :
    (Reading.v5 (fields5 temp hum press ax ay az powerInfo move seq)).value =
      .v5 (refTemperature5 temp.toNat) ((hum.toNat : Rat) / 400) (press.toNat + 50000) ax.toInt ay.toInt az.toInt
        (powerInfo.toNat / 32 + 1600) (((powerInfo.toNat % 32 : Nat) : Int) * 2 - 40) move seq.toNat := by
  simp only [Reading.value, fields5, df5Temp_div, twosComplement16_eq_toInt, pressureOf, powerBattery_eq, powerTx_eq]

theorem isDec2_iff (b : Byte) : isDec2 b = true ↔ b.toNat / 16 ≤ 9 ∧ b.toNat % 16 ≤ 9 := by
  rw [isDec2, Bool.and_eq_true, decide_eq_true_eq, decide_eq_true_eq]
  rfl

/-- Settles O7: DF2 drives the V2 reading of its operands, and the buses lose nothing of it. -/
theorem df2YieldsItsReading : Obligations.Df2YieldsItsReading :=
  fun hum temp press eid _ hv => exec_yields_reading hv rfl (value_v2 hum temp press eid)

/-- Settles O8: DF4 drives the V4 reading of its operands. -/
theorem df4YieldsItsReading : Obligations.Df4YieldsItsReading :=
  fun hum temp press eid _ hv => exec_yields_reading hv rfl (value_v4 hum temp press eid)

/-- Settles O9: two decimal nibbles take DF3 to its reading. -/
theorem df3YieldsItsReading : Obligations.Df3YieldsItsReading := by
  intro hum tInt tFrac press ax ay az batt s hv hhigh hlow
  have hdec : isDec2 hum = true := (isDec2_iff hum).mpr ⟨hhigh, hlow⟩
  exact exec_yields_reading hv (if_pos hdec) (value_v3 hdec ..)

/-- Settles O10: a nibble above 9 takes DF3 to its error, whose ports are the idle pattern but for the flags. -/
theorem df3RaisesMalformedEncoding : Obligations.Df3RaisesMalformedEncoding := by
  intro hum tInt tFrac press ax ay az batt s hv hnibble
  have hdec : isDec2 hum = false := (isDec2_eq_false_iff hum).mpr hnibble
  rw [exec_of_valid _ hv, operationOutcome, hdec]
  rfl

/-- Settles O11: DF5 drives the V5 reading of its operands, whatever length it carries. -/
theorem df5YieldsItsReading : Obligations.Df5YieldsItsReading :=
  fun _ temp hum press ax ay az powerInfo move seq _ hv =>
    exec_yields_reading hv rfl (value_v5 temp hum press ax ay az powerInfo move seq)

end Sys2Proof.Machine
end

section
/-! The block as a function of its input ports (10_state.md R20; 44_dispatch.md R163, R166): the ports every state settles
to, and that a consumer reads `Decode` of the inputs off them. -/

namespace Sys2Proof.Machine

/-- The output ports the inputs settle to. An illegal read, which no dispatcher performs, is given the idle pattern. -/
def settledPorts (p : InPorts) : OutPorts :=
  if p.inValid then
    match decode p.transport p.len p.pl with
    | .ok i => outcomePorts (operationOutcome i)
    | .error (.error e) => outcomePorts (.error e)
    | .error (.illegalRead _) => OutPorts.idle
  else OutPorts.idle

theorem settledPorts_of_idle {p : InPorts} (hv : p.inValid = false) : settledPorts p = OutPorts.idle := by
  simp [settledPorts, hv]

theorem settledPorts_of_decode_ok {p : InPorts} {i : Instr} (hv : p.inValid = true)
    (hd : decode p.transport p.len p.pl = .ok i) : settledPorts p = outcomePorts (operationOutcome i) := by
  simp [settledPorts, hv, hd]

theorem settledPorts_of_decode_error {p : InPorts} {e : DecodeError} (hv : p.inValid = true)
    (hd : decode p.transport p.len p.pl = .error (.error e)) : settledPorts p = outcomePorts (.error e) := by
  simp [settledPorts, hv, hd]

/-- Decoding ends in an operation or in a decode error (20_memory.md R46). -/
theorem decode_cases (t : Transport) (len : Len) (pl : Memory) :
    (∃ i, decode t len pl = .ok i) ∨ ∃ e, decode t len pl = .error (.error e) := by
  cases hd : decode t len pl with
  | ok i => exact .inl ⟨i, rfl⟩
  | error r =>
    cases r with
    | error e => exact .inr ⟨e, rfl⟩
    | illegalRead offset => exact absurd hd (decode_ne_illegalRead t len pl offset)

/-- Settling, said once: the output ports become those of the inputs and nothing else changes. -/
theorem settle_eq (s : State) : settle s = .next { s with out := settledPorts s.inp } := by
  cases hv : s.inp.inValid with
  | false => rw [settle_of_idle hv, settledPorts_of_idle hv, State.goIdle]
  | true =>
    rcases decode_cases s.inp.transport s.inp.len s.inp.pl with ⟨i, hd⟩ | ⟨e, hd⟩
    · rw [settle_of_decode_ok hv hd, exec_of_valid i hv, settledPorts_of_decode_ok hv hd]
    · rw [settle_of_decode_error hv hd, State.raise, State.drive_of_valid _ hv, settledPorts_of_decode_error hv hd]

/-- A step, said once. -/
theorem step_eq (s : State) :
    step s = .next (record (hostMove s).2 { (hostMove s).1 with out := settledPorts (hostMove s).1.inp }) := by
  rw [step, advance, settle_eq, mapNext_next]

/-! Decoding against the reference, which reads its bytes as numbers. -/

/-- The bytes of a payload as the reference sees them. -/
def Memory.toNats (pl : Memory) (k : Nat) : Nat := (pl.read k).toNat

theorem ofNat_toNats (pl : Memory) (k : Nat) : BitVec.ofNat 8 (pl.toNats k) = pl.read k :=
  (BitVec.ofNat_toNat 8 _).trans (BitVec.setWidth_eq _)

theorem toNats_eq_iff (pl : Memory) (k : Nat) (b : Byte) : pl.toNats k = b.toNat ↔ pl.read k = b :=
  BitVec.toNat_inj

theorem refBe16_toNats (pl : Memory) (k : Nat) : refBe16 pl.toNats k = (pl.read16 k).toNat :=
  (pl.read16_toNat k).symm

theorem refSigned16_toNat (raw : Half) : refSigned16 raw.toNat = raw.toInt :=
  twosComplement16_eq_toInt raw

theorem refEid_toNats (len : Len) (pl : Memory) :
    refEid len.toNat pl.toNats = if len = 7 then some (pl.read 6) else none := by
  have h7 : len.toNat = 7 ↔ len = 7 := BitVec.toNat_inj (y := 7)
  simp only [refEid, h7, ofNat_toNats]

theorem value_operationOutcome_df2 (len : Len) (pl : Memory) :
    (operationOutcome (.df2 (pl.read 1) (pl.read 2) (pl.read16 4) (if len = 7 then some (pl.read 6) else none))).value =
      .reading (refDf2 len.toNat pl.toNats) := by
  rw [operationOutcome, DecodeOutcome.value, value_v2, refDf2, refEid_toNats, refBe16_toNats]
  rfl

theorem value_operationOutcome_df4 (len : Len) (pl : Memory) :
    (operationOutcome (.df4 (pl.read 1) (pl.read 2) (pl.read16 4) (if len = 7 then some (pl.read 6) else none))).value =
      .reading (refDf4 len.toNat pl.toNats) := by
  rw [operationOutcome, DecodeOutcome.value, value_v4, refDf4, refEid_toNats, refBe16_toNats]
  rfl

theorem value_operationOutcome_df3 (pl : Memory) :
    (operationOutcome (.df3 (pl.read 3) (pl.read 4) (pl.read 5) (pl.read16 6) (pl.read16 8) (pl.read16 10)
      (pl.read16 12) (pl.read16 14))).value = refDf3 pl.toNats := by
  simp only [operationOutcome, refDf3, refBe16_toNats, refSigned16_toNat]
  cases hdec : isDec2 (pl.read 3) with
  | true =>
    have hnibbles : pl.toNats 3 / 16 ≤ 9 ∧ pl.toNats 3 % 16 ≤ 9 := (isDec2_iff _).mp hdec
    rw [if_pos rfl, if_neg (by omega), DecodeOutcome.value, value_v3 hdec]
    push_cast
    rfl
  | false =>
    have hnibble : pl.toNats 3 / 16 > 9 ∨ pl.toNats 3 % 16 > 9 := (isDec2_eq_false_iff _).mp hdec
    rw [if_neg Bool.false_ne_true, if_pos hnibble, ofNat_toNats, DecodeOutcome.value]

theorem value_operationOutcome_df5 (len : Len) (pl : Memory) :
    (operationOutcome (.df5 len (pl.read16 3) (pl.read16 5) (pl.read16 7) (pl.read16 9) (pl.read16 11) (pl.read16 13)
      (pl.read16 15) (pl.read 17) (pl.read16 18))).value = .reading (refDf5 pl.toNats) := by
  rw [operationOutcome, DecodeOutcome.value, value_v5]
  simp only [refDf5, refBe16_toNats, refSigned16_toNat, ofNat_toNats]

/-- The outcome a decoding stands for; an illegal read, which no dispatcher performs, stands for none. -/
def decodedValue : Except DecodeReject Instr → Option (DecodeOutcome DecodedReading)
  | .ok i => some (operationOutcome i).value
  | .error (.error e) => some (.error e)
  | .error (.illegalRead _) => none

/-- The URL dispatcher follows R161. -/
theorem decodedValue_dispatchUrl (len : Len) (pl : Memory) :
    decodedValue (dispatchUrl len pl) = some (refDispatchUrl len.toNat pl.toNats) := by
  have h2 : pl.toNats 0 = 2 ↔ pl.read 0 = 2 := toNats_eq_iff pl 0 2
  have h4 : pl.toNats 0 = 4 ↔ pl.read 0 = 4 := toNats_eq_iff pl 0 4
  rw [dispatchUrl_eq, refDispatchUrl]
  simp only [h2, h4, gt_iff_lt, ← value_operationOutcome_df2, ← value_operationOutcome_df4, ofNat_toNats,
    BitVec.ofNat_toNat, BitVec.setWidth_eq]
  split_ifs <;> rfl

/-- The RAW dispatcher follows R162. -/
theorem decodedValue_dispatchRaw (len : Len) (pl : Memory) :
    decodedValue (dispatchRaw len pl) = some (refDispatchRaw len.toNat pl.toNats) := by
  have h3 : pl.toNats 2 = 3 ↔ pl.read 2 = 3 := toNats_eq_iff pl 2 3
  have h5 : pl.toNats 2 = 5 ↔ pl.read 2 = 5 := toNats_eq_iff pl 2 5
  rw [dispatchRaw_eq, refDispatchRaw]
  simp only [h3, h5, ← value_operationOutcome_df3, ← value_operationOutcome_df5 len, ofNat_toNats,
    BitVec.ofNat_toNat, BitVec.setWidth_eq]
  split_ifs <;> rfl

/-- What the decoder selects, or rejects, is what the reference says of the inputs (R166). -/
theorem decodedValue_decode (p : InPorts) :
    decodedValue (decode p.transport p.len p.pl) = some (referenceOutcome p) := by
  rw [referenceOutcome]
  cases p.transport with
  | url => exact decodedValue_dispatchUrl p.len p.pl
  | raw => exact decodedValue_dispatchRaw p.len p.pl

theorem settledPorts_cases {p : InPorts} (hv : p.inValid = true) :
    ∃ o, settledPorts p = outcomePorts o ∧ observe (outcomePorts o) = some (referenceOutcome p) := by
  have hvalue := decodedValue_decode p
  rcases decode_cases p.transport p.len p.pl with ⟨i, hd⟩ | ⟨e, hd⟩ <;> rw [hd, decodedValue] at hvalue
  · exact ⟨_, settledPorts_of_decode_ok hv hd, (observe_operationOutcome i).trans hvalue⟩
  · exact ⟨_, settledPorts_of_decode_error hv hd, (observe_error e).trans hvalue⟩

/-- The settled ports are what the inputs say. -/
theorem settledPorts_settled (p : InPorts) : PortsSettled p (settledPorts p) := by
  refine ⟨settledPorts_of_idle, fun hv => ?_⟩
  obtain ⟨o, hports, hobserve⟩ := settledPorts_cases hv
  rw [hports]
  exact ⟨outcomePorts_legal o, hobserve⟩

end Sys2Proof.Machine
end

section
/-! What every step keeps (10_state.md sections 1 and 3; 44_dispatch.md sections 2 and 3): canonical payloads, settled
outputs, and one sample for each presentation, in order. -/

namespace Sys2Proof.Machine

/-- After a step the outputs are those of the inputs. -/
theorem step_settled {s t : State} (h : step s = .next t) : t.Settled := by
  rw [step_eq, Host.Outcome.next.injEq] at h
  subst h
  rw [State.Settled, record_inp, record_out]
  exact settledPorts_settled _

/-- The host drives canonical payloads: those of its queue, or those of a hand-over. -/
theorem hostMove_canonical {s : State} (h : s.Canonical) : (hostMove s).1.Canonical := by
  obtain ⟨hinp, hpending⟩ := h
  rcases hostMove_cases s with ⟨-, hmove⟩ | ⟨p, rest, hs, hmove⟩ | ⟨bytes, rest, hs, hmove⟩ |
      ⟨text, rest, hs, ⟨bytes, -, hmove⟩ | ⟨e, -, hmove⟩⟩ <;> rw [hmove]
  · exact ⟨hinp, hpending⟩
  all_goals
    rw [hs, List.forall_mem_cons] at hpending
    obtain ⟨hfirst, hrest⟩ := hpending
  · exact ⟨hfirst, hrest⟩
  · exact ⟨handOver_wf .., hrest⟩
  · exact ⟨handOver_wf .., hrest⟩
  · exact ⟨hinp, hrest⟩

theorem step_canonical {s t : State} (hs : s.Canonical) (h : step s = .next t) : t.Canonical := by
  rw [step_eq, Host.Outcome.next.injEq] at h
  subst h
  rw [State.Canonical, record_inp, record_pending]
  exact hostMove_canonical hs

/-- Settles O34: the canonical part is kept by the host's move, the settled part holds after every step. -/
theorem stepKeepsPayloadsCanonicalAndOutputsSettled : Obligations.StepKeepsPayloadsCanonicalAndOutputsSettled :=
  fun _ _ hinv hstep => ⟨step_canonical hinv.1 hstep, step_settled hstep⟩

/-- Settles O35: nothing is driven and nothing is pending at reset. -/
theorem resetIsCanonicalAndSettled : Obligations.ResetIsCanonicalAndSettled :=
  ⟨⟨reset_pl_wf, nofun⟩, fun _ => rfl, nofun⟩

/-- Settles O36: settling takes no account of the outputs it replaces. -/
theorem outputsSettleFromAnyState : Obligations.OutputsSettleFromAnyState :=
  fun _ _ => step_settled

/-- Settles O33: settling answers a next state on every input, so the step does. -/
theorem everyStepContinues : Obligations.EveryStepContinues :=
  fun s => ⟨_, step_eq s⟩

theorem hostMove_of_pending_nil {s : State} (h : s.pending = []) : hostMove s = (s, .hold) := by
  rw [hostMove, h]

theorem step_of_pending_nil {s : State} (h : s.pending = []) :
    step s = .next { s with out := settledPorts s.inp } := by
  rw [step_eq, hostMove_of_pending_nil h, record_hold]

/-- Settles O37: without a request a step recomputes the outputs from inputs it leaves as they are. -/
theorem outcomeLastsWhileTheInputsHold : Obligations.OutcomeLastsWhileTheInputsHold := by
  intro s t hpending h
  cases (step_of_pending_nil hpending).symm.trans h
  exact ⟨rfl, hpending, rfl, step_of_pending_nil hpending⟩

/-- The state after a request to drive the ports has been served. -/
def State.served (s : State) (p : InPorts) (rest : List HostRequest) : State :=
  { inp := p, out := settledPorts p, pending := rest, results := s.results ++ [.sampled (settledPorts p)] }

theorem step_of_pending_ports {s : State} {p : InPorts} {rest : List HostRequest} (h : s.pending = .ports p :: rest) :
    step s = .next (s.served p rest) := by
  have hmove : hostMove s = ({ s with inp := p, pending := rest }, .sample) := by rw [hostMove, h]
  rw [step_eq, hmove]
  rfl

theorem core_run_succ {n : Nat} {s s' : State} (h : step s = .next s') :
    Host.Core.run Sys2Proof.core (n + 1) s = Host.Core.run Sys2Proof.core n s' := by
  have hstep : Sys2Proof.core.step s = .next s' := h
  simp only [Host.Core.run, hstep]

/-- Settles O29: the sample is a function of the inputs driven. -/
theorem transactionsAreIndependent : Obligations.TransactionsAreIndependent := by
  intro s s' t t' p rest rest' hs hs' h h'
  cases (step_of_pending_ports hs).symm.trans h
  cases (step_of_pending_ports hs').symm.trans h'
  exact ⟨settledPorts p, settledPorts_settled p, rfl, rfl, rfl, rfl⟩

/-- Settles O30, by induction on the presentations: each step serves the first one and leaves the others pending. -/
theorem sequencesYieldTheirOutcomesInOrder : Obligations.SequencesYieldTheirOutcomesInOrder := by
  intro ps
  induction ps with
  | nil => exact fun s hs => ⟨s, [], rfl, hs, (List.append_nil _).symm, .nil⟩
  | cons p ps ih =>
    intro s hs
    obtain ⟨t, outs, hrun, hpending, hresults, hsettled⟩ := ih (s.served p (ps.map .ports)) rfl
    refine ⟨t, settledPorts p :: outs, ?run, hpending, ?results, .cons (settledPorts_settled p) hsettled⟩
    case run => exact (core_run_succ (step_of_pending_ports hs)).trans hrun
    case results =>
      rw [hresults, State.served, List.map_cons, List.append_assoc, List.singleton_append]

/-- Settles O31: settling a transaction that decodes is the operation. -/
theorem stepRunsTheDecodedInstruction : Obligations.StepRunsTheDecodedInstruction := by
  intro s i hv hd
  rw [step, advance, settle_of_decode_ok hv hd]

theorem decodeTableWord_eq_some_iff {nbits w : Nat} {i : Instr} :
    decodeTableWord nbits w = some i ↔ decodeTransaction (tableTransaction nbits w) = .ok i := by
  rw [decodeTableWord]
  split <;> simp [*]

/-- Settles O32: the host's move presents the word's transaction, which decodes to the word's instruction. -/
theorem tableWordIsFetchedAndRun : Obligations.TableWordIsFetchedAndRun :=
  fun s nbits w i h =>
    stepRunsTheDecodedInstruction (s.withFetchWord nbits w) i rfl (decodeTableWord_eq_some_iff.mp h)

end Sys2Proof.Machine
end

section
/-! The dispatcher's errors in the order of its checks (44_dispatch.md R161, R162; 60_exceptions.md R193, R194, R197), each
as the exact state the block settles to. -/

namespace Sys2Proof.Machine

/-- A rejected URL transaction settles to the idle pattern but for the error's flags (60_exceptions.md R198). -/
theorem settle_of_dispatchUrl_error {s : State} {e : DecodeError} (hv : s.inp.inValid = true)
    (hurl : s.inp.transport = .url) (hd : dispatchUrl s.inp.len s.inp.pl = .error (.error e)) :
    settle s = .next { s with out := outcomePorts (.error e) } := by
  rw [settle_eq, settledPorts_of_decode_error hv (by rw [hurl]; exact hd)]

/-- A rejected RAW transaction settles to the idle pattern but for the error's flags (60_exceptions.md R198). -/
theorem settle_of_dispatchRaw_error {s : State} {e : DecodeError} (hv : s.inp.inValid = true)
    (hraw : s.inp.transport = .raw) (hd : dispatchRaw s.inp.len s.inp.pl = .error (.error e)) :
    settle s = .next { s with out := outcomePorts (.error e) } := by
  rw [settle_eq, settledPorts_of_decode_error hv (by rw [hraw]; exact hd)]

/-- Settles O16: the length test stands before the identifier is read. -/
theorem urlLengthIsTestedFirst : Obligations.UrlLengthIsTestedFirst := by
  intro s hv hurl hlen
  exact settle_of_dispatchUrl_error (e := .malformedLength s.inp.len) hv hurl (by rw [dispatchUrl_eq, if_pos hlen])

/-- Settles O17: with a legal length the identifier decides. -/
theorem urlIdentifierUnsupported : Obligations.UrlIdentifierUnsupported := by
  intro s hv hurl hmin hmax h2 h4
  exact settle_of_dispatchUrl_error (e := .unsupportedFormat (s.inp.pl.read 0)) hv hurl
    (by rw [dispatchUrl_eq, if_neg (by omega), if_neg h2, if_neg h4])

theorem dispatchRaw_of_no_identifier {len : Len} {pl : Memory} (hlen : len.toNat < 3) :
    dispatchRaw len pl = .error (.error (.malformedLength len)) := by
  rw [dispatchRaw_eq, if_pos hlen]

theorem dispatchRaw_of_unknown_identifier {len : Len} {pl : Memory} (hlen : 3 ≤ len.toNat) (h3 : pl.read 2 ≠ 3)
    (h5 : pl.read 2 ≠ 5) : dispatchRaw len pl = .error (.error (.unsupportedFormat (pl.read 2))) := by
  rw [dispatchRaw_eq, if_neg (by omega), if_neg h3, if_neg h5]

theorem dispatchRaw_of_wrong_length {len : Len} {pl : Memory} (hlen : 3 ≤ len.toNat)
    (h : (pl.read 2 = 3 ∧ len.toNat ≠ 16) ∨ (pl.read 2 = 5 ∧ len.toNat < 20)) :
    dispatchRaw len pl = .error (.error (.malformedLength len)) := by
  rw [dispatchRaw_eq, if_neg (by omega)]
  rcases h with ⟨h3, h16⟩ | ⟨h5, h20⟩
  · rw [if_pos h3, if_pos h16]
  · rw [if_neg (by rw [h5]; decide), if_pos h5, if_pos h20]

/-- A format 3 payload of its one legal length whose humidity is not decimal settles to DF3's error (R131, R195). -/
theorem settle_of_nondecimal_humidity {s : State} (hv : s.inp.inValid = true) (hraw : s.inp.transport = .raw)
    (hlen : s.inp.len.toNat = 16) (hid : s.inp.pl.read 2 = 3) (hdec : isDec2 (s.inp.pl.read 3) = false) :
    settle s = .next { s with out := outcomePorts (.error (.malformedEncoding (s.inp.pl.read 3))) } := by
  have hd := dispatchRaw_eq_ok_iff.mpr (.inl ⟨hid, hlen, rfl⟩)
  rw [settle_eq, settledPorts_of_decode_ok hv (by rw [hraw]; exact hd), operationOutcome, hdec,
    if_neg Bool.false_ne_true]

/-- Settles O18: one clause for each test of the RAW dispatcher, the last for DF3's own test behind it. -/
theorem rawErrorsInOrder : Obligations.RawErrorsInOrder := by
  intro s hv hraw
  refine ⟨fun hlen => ?_, fun hlen h3 h5 => ?_, fun hlen h => ?_, fun hlen hid hdec => ?_⟩
  · exact settle_of_dispatchRaw_error hv hraw (dispatchRaw_of_no_identifier hlen)
  · exact settle_of_dispatchRaw_error hv hraw (dispatchRaw_of_unknown_identifier hlen h3 h5)
  · exact settle_of_dispatchRaw_error hv hraw (dispatchRaw_of_wrong_length hlen h)
  · exact settle_of_nondecimal_humidity hv hraw hlen hid hdec

end Sys2Proof.Machine
end

section
/-! Canonical payloads (20_memory.md section 1; log 5) are determined by what is read off them. -/

namespace Sys2Proof.Machine

theorem Memory.wfFrom_cons {lo k : Nat} {b : Byte} {m : Memory} (h : Memory.wfFrom lo ((k, b) :: m) = true) :
    b ≠ Memory.unlisted ∧ Memory.wfFrom k ((k, b) :: m) = true ∧ Memory.wfFrom (k + 1) m = true := by
  simp only [Memory.wfFrom, Bool.and_eq_true, decide_eq_true_eq] at h ⊢
  obtain ⟨⟨⟨-, hpl⟩, hb⟩, hm⟩ := h
  exact ⟨hb, ⟨⟨⟨Nat.le_refl k, hpl⟩, hb⟩, hm⟩, hm⟩

@[simp] theorem Memory.read_cons_same (k : Nat) (b : Byte) (m : Memory) : Memory.read ((k, b) :: m) k = b :=
  if_pos rfl

theorem Memory.read_cons_other {k x : Nat} (b : Byte) (m : Memory) (h : k ≠ x) :
    Memory.read ((k, b) :: m) x = m.read x :=
  if_neg h

/-- A listed offset cannot lie below everything another canonical payload lists, if the two read alike. -/
theorem Memory.le_of_read_eq {lo k : Nat} {b : Byte} {m m' : Memory} (hb : b ≠ Memory.unlisted)
    (h' : Memory.wfFrom lo m' = true) (heq : ∀ x, Memory.read ((k, b) :: m) x = m'.read x) : lo ≤ k := by
  by_contra hlt
  have hk : b = Memory.unlisted := by
    rw [← Memory.read_cons_same k b m, heq k, Memory.read_below h' (by omega)]
  exact hb hk

/-- Extensionality of canonical payloads, by induction on both lists: the first offsets listed are the same, and below the
tails' bound both tails read as unlisted. -/
theorem Memory.eq_of_read_eq {m m' : Memory} {lo : Nat} (h : Memory.wfFrom lo m = true) (h' : Memory.wfFrom lo m' = true)
    (heq : ∀ x, m.read x = m'.read x) : m = m' := by
  induction m generalizing m' lo with
  | nil =>
    cases m' with
    | nil => rfl
    | cons entry m' =>
      obtain ⟨k, b⟩ := entry
      obtain ⟨hb, -, -⟩ := Memory.wfFrom_cons h'
      exact absurd ((Memory.read_cons_same k b m').symm.trans (heq k).symm) hb
  | cons entry m ih =>
    obtain ⟨k, b⟩ := entry
    obtain ⟨hb, hk, hm⟩ := Memory.wfFrom_cons h
    cases m' with
    | nil => exact absurd ((Memory.read_cons_same k b m).symm.trans (heq k)) hb
    | cons entry' m' =>
      obtain ⟨k', b'⟩ := entry'
      obtain ⟨hb', hk', hm'⟩ := Memory.wfFrom_cons h'
      have hle : k' ≤ k := Memory.le_of_read_eq hb hk' heq
      have hge : k ≤ k' := Memory.le_of_read_eq hb' hk fun x => (heq x).symm
      obtain rfl : k = k' := Nat.le_antisymm hge hle
      obtain rfl : b = b' := by simpa using heq k
      rw [ih hm hm' fun x => ?_]
      by_cases hx : k = x
      · rw [Memory.read_below hm (by omega), Memory.read_below hm' (by omega)]
      · simpa only [Memory.read_cons_other _ _ hx] using heq x

/-- Settles O38: the canonical form from offset 0 up. -/
theorem canonicalPayloadsAreEqualData : Obligations.CanonicalPayloadsAreEqualData :=
  fun _ _ => Memory.eq_of_read_eq

end Sys2Proof.Machine
end

section
/-! Primitives and fixtures (40_primitives.md R93, R95, R99; 20_memory.md R56; 41_format_2_4.md R110; 42_format_3.md R130;
43_format_5.md R154): each fixture operand is read back as its target by the primitive of its field. -/

namespace Sys2Proof.Machine

/-- Settles O43: where the combined value is at most 128.00 the threshold keeps it, and above it agrees with the sign bit
exactly if the whole part has bit 7 set. -/
theorem thresholdDiffersFromASignBit : Obligations.ThresholdDiffersFromASignBit := by
  intro i f
  have h128 : i = 128 ↔ i.toNat = 128 := BitVec.toNat_eq
  have h126 : i = 126 ↔ i.toNat = 126 := BitVec.toNat_eq
  have h127 : i = 127 ↔ i.toNat = 127 := BitVec.toNat_eq
  have h0 : f = 0 ↔ f.toNat = 0 := BitVec.toNat_eq
  have hf := f.isLt
  have ht : t100 i f = 100 * i.toNat + f.toNat := rfl
  rw [h128, h126, h127, h0]
  rcases Nat.lt_or_ge 12800 (t100 i f) with h | h
  · rw [thr128_of_gt h]
    split <;> omega
  · rw [thr128_of_le h]
    split <;> omega

theorem fixtureDec2_toNat {n : Nat} (hn : n < 100) : (fixtureDec2 n).toNat = n / 10 * 16 + n % 10 :=
  (BitVec.toNat_ofNat _ 8).trans (Nat.mod_eq_of_lt (by omega))

theorem isDec2_fixtureDec2 {n : Nat} (hn : n < 100) : isDec2 (fixtureDec2 n) = true := by
  rw [isDec2_iff, fixtureDec2_toNat hn]
  omega

/-- `dec2` on its domain, in the byte's value. -/
theorem dec2_eq {b : Byte} (h : isDec2 b = true) : dec2 b = 10 * (b.toNat / 16) + b.toNat % 16 :=
  dec2_of_isDec2 h

theorem dec2_fixtureDec2 {n : Nat} (hn : n < 100) : dec2 (fixtureDec2 n) = n := by
  rw [dec2_eq (isDec2_fixtureDec2 hn), fixtureDec2_toNat hn]
  omega

/-- The digits of a number below 100 determine the byte. -/
theorem eq_fixtureDec2_of_dec2 {b : Byte} (h : isDec2 b = true) : b = fixtureDec2 (dec2 b) := by
  have hvalue := dec2_eq h
  have hdigits := (isDec2_iff b).mp h
  refine BitVec.eq_of_toNat_eq ?_
  rw [fixtureDec2_toNat (dec2_lt_hundred h)]
  omega

/-- Settles O44: the fixture byte is the one preimage of a number below 100; the count of the other bytes is evaluated. -/
theorem decimalPairRule : Obligations.DecimalPairRule := by
  refine ⟨fun b h => ⟨dec2_eq h, Nat.le_of_lt_succ (dec2_lt_hundred h)⟩, fun n hn => ?_, rfl⟩
  refine ⟨fixtureDec2 n, ⟨isDec2_fixtureDec2 hn, dec2_fixtureDec2 hn⟩, ?_⟩
  rintro b ⟨hdec, rfl⟩
  exact eq_fixtureDec2_of_dec2 hdec

theorem hexDigit_even (pl : Memory) (k : Nat) : hexDigit pl (2 * k) = highNibble (pl.read k) := by
  rw [hexDigit, if_pos (Nat.mul_mod_right 2 k), Nat.mul_div_cancel_left k Nat.two_pos]

theorem hexDigit_odd (pl : Memory) (k : Nat) : hexDigit pl (2 * k + 1) = lowNibble (pl.read k) := by
  have hhalf : (2 * k + 1) / 2 = k := by omega
  rw [hexDigit, if_neg (by omega), hhalf]

theorem nibbles_eq_toNat (b : Byte) : highNibble b * 16 + lowNibble b = b.toNat :=
  Nat.div_add_mod' b.toNat 16

theorem hexValue16_eq (pl : Memory) (k : Nat) : hexValue16 pl k = (pl.read16 k).toNat := by
  have hhigh := nibbles_eq_toNat (pl.read k)
  have hlow := nibbles_eq_toNat (pl.read (k + 1))
  have hthird := hexDigit_even pl (k + 1)
  have hfourth := hexDigit_odd pl (k + 1)
  rw [Nat.mul_add_one] at hthird hfourth
  rw [hexValue16, hexDigit_even, hexDigit_odd, hthird, hfourth, Memory.read16_toNat]
  omega

/-- Settles O46: the digits at 2k and 2k + 1 are the nibbles of the byte at k. -/
theorem hexDigitViewAgreesWithBytes : Obligations.HexDigitViewAgreesWithBytes :=
  fun pl k => ⟨hexValue16_eq pl k, by rw [decimalPair, hexDigit_even, hexDigit_odd, dec2]⟩

theorem ofInt_df5Temp (raw : Half) :
    BitVec.ofInt 16 (df5Temp raw) = if raw.toNat ≤ 32767 then raw else raw + 2 := by
  split
  · rw [df5Temp_of_le ‹_›, ofInt_twosComplement16]
  · rw [df5Temp_of_gt (by omega), BitVec.ofInt_add, ofInt_twosComplement16]
    rfl

/-- Settles O47: the value of R94 is that of R91, moved up by 2 in the negative half, and fits the 16-bit port. -/
theorem signedPortPatterns : Obligations.SignedPortPatterns := by
  intro raw
  obtain ⟨hmin, hmax⟩ := df5Temp_bounds raw
  exact ⟨ofInt_twosComplement16 raw, ofInt_df5Temp raw,
    BitVec.toInt_ofInt_eq_self (by decide) (by omega) (by omega)⟩

/-- A non-negative value that fits is the unsigned value of its pattern. -/
theorem toNat_ofInt_of_lt {w : Nat} {v : Int} (hmin : 0 ≤ v) (hmax : v < 2 ^ w) :
    ((BitVec.ofInt w v).toNat : Int) = v := by
  rw [BitVec.toNat_ofInt, Nat.cast_pow, Nat.cast_ofNat, Int.emod_eq_of_lt hmin hmax, Int.toNat_of_nonneg hmin]

theorem pressureOf_fixture {p : Nat} (hmin : 50000 ≤ p) (hmax : p ≤ 115535) :
    pressureOf (BitVec.ofNat 16 (p - 50000)) = p := by
  rw [pressureOf, BitVec.toNat_ofNat]
  omega

theorem recoverSigned_fixtureSigned {t : Int} (hmin : -127 ≤ t) (hmax : t ≤ 127) :
    recoverSigned (fixtureSigned t) = t := by
  rw [recoverSigned_eq_refSignMagnitude, refSignMagnitude, fixtureSigned]
  split
  · have hvalue := toNat_ofInt_of_lt (w := 8) (v := t) (by omega) (by omega)
    split <;> omega
  · have hvalue := toNat_ofInt_of_lt (w := 8) (v := 128 - t) (by omega) (by omega)
    split <;> omega

theorem fields24_fixture {h p : Nat} {t : Int} (eid : Option Byte) (hh : h ≤ 255) (htmin : -127 ≤ t) (htmax : t ≤ 127)
    (hpmin : 50000 ≤ p) (hpmax : p ≤ 115535) :
    fields24 (BitVec.ofNat 8 h) (fixtureSigned t) (BitVec.ofNat 16 (p - 50000)) eid = ⟨h, t, p, eid⟩ := by
  have hhum : (BitVec.ofNat 8 h).toNat = h := (BitVec.toNat_ofNat h 8).trans (Nat.mod_eq_of_lt (by omega))
  rw [fields24, hhum, recoverSigned_fixtureSigned htmin htmax, pressureOf_fixture hpmin hpmax]

/-- What an operation that drives a reading leaves for the consumer, without the frame. -/
theorem exec_observe_reading {i : Instr} {s : State} {r : Reading} (hv : s.inp.inValid = true)
    (hi : operationOutcome i = .reading r) : ∃ u, exec i s = .next u ∧ observe u.out = some (.reading r.value) := by
  obtain ⟨u, hexec, -, -, -, -, -, hobserve⟩ := exec_yields_reading hv hi rfl
  exact ⟨u, hexec, hobserve⟩

/-- Settles O48: the fields of the fixture are its targets. -/
theorem format24FixturesHitTheirTargets : Obligations.Format24FixturesHitTheirTargets := by
  intro h p t eid s hv hh htmin htmax hpmin hpmax
  have hfields := fields24_fixture eid hh htmin htmax hpmin hpmax
  constructor
  · refine exec_observe_reading hv (r := .v2 ⟨h, t, p, eid⟩) ?_
    rw [fixtureDf2, operationOutcome, hfields]
  · refine exec_observe_reading hv (r := .v4 ⟨h, t, p, eid⟩) ?_
    rw [fixtureDf4, operationOutcome, hfields]

theorem t100_fixture_of_nonneg {t : Int} (hmin : 0 ≤ t) (hmax : t ≤ 12800) :
    (t100 (fixtureWhole t) (fixtureFrac t) : Int) = t := by
  have hwhole := toNat_ofInt_of_lt (w := 8) (v := t / 100) (by omega) (by omega)
  have hfrac := toNat_ofInt_of_lt (w := 8) (v := t % 100) (by omega) (by omega)
  rw [t100, fixtureWhole, fixtureFrac, if_pos hmin, if_pos hmin]
  omega

theorem t100_fixture_of_neg {t : Int} (hmin : -12799 ≤ t) (hmax : t < 0) :
    (t100 (fixtureWhole t) (fixtureFrac t) : Int) = 12800 - t := by
  have hwhole := toNat_ofInt_of_lt (w := 8) (v := 128 + -t / 100) (by omega) (by omega)
  have hfrac := toNat_ofInt_of_lt (w := 8) (v := -t % 100) (by omega) (by omega)
  rw [t100, fixtureWhole, fixtureFrac, if_neg (by omega), if_neg (by omega)]
  omega

theorem thr128_fixture {t : Int} (hmin : -12799 ≤ t) (hmax : t ≤ 12800) :
    thr128 (fixtureWhole t) (fixtureFrac t) = t := by
  rcases lt_or_ge t 0 with hneg | hnonneg
  · have hcombined := t100_fixture_of_neg hmin hneg
    rw [thr128_of_gt (by omega)]
    omega
  · have hcombined := t100_fixture_of_nonneg hnonneg hmax
    rw [thr128_of_le (by omega), hcombined]

/-- Settles O49: the digit pair is decimal, so DF3 drives a reading, and its fields are the targets. -/
theorem format3FixturesHitTheirTargets : Obligations.Format3FixturesHitTheirTargets := by
  intro h p b t ax ay az s hv hh htmin htmax hpmin hpmax hb haxmin haxmax haymin haymax hazmin hazmax
  have hbatt : (BitVec.ofNat 16 b).toNat = b := (BitVec.toNat_ofNat b 16).trans (Nat.mod_eq_of_lt (by omega))
  have hfields : fields3 (fixtureDec2 h) (fixtureWhole t) (fixtureFrac t) (BitVec.ofNat 16 (p - 50000))
      (BitVec.ofInt 16 ax) (BitVec.ofInt 16 ay) (BitVec.ofInt 16 az) (BitVec.ofNat 16 b) = ⟨h, t, p, ax, ay, az, b⟩ := by
    rw [fields3, dec2_fixtureDec2 (by omega), thr128_fixture htmin htmax, pressureOf_fixture hpmin hpmax,
      twosComplement16_ofInt haxmin haxmax, twosComplement16_ofInt haymin haymax, twosComplement16_ofInt hazmin hazmax,
      hbatt]
  refine exec_observe_reading hv (r := .v3 ⟨h, t, p, ax, ay, az, b⟩) ?_
  rw [fixtureDf3, operationOutcome, if_pos (isDec2_fixtureDec2 (by omega)), hfields]

theorem df5Temp_fixtureTemp5 {t : Int} (hmin : -32766 ≤ t) (hmax : t ≤ 32767) : df5Temp (fixtureTemp5 t) = t := by
  rcases lt_or_ge t 0 with hneg | hnonneg
  · have hpattern : fixtureTemp5 t = BitVec.ofInt 16 (t + 65534) := if_neg (by omega)
    have hvalue := toNat_ofInt_of_lt (w := 16) (v := t + 65534) (by omega) (by omega)
    rw [hpattern, df5Temp, if_pos (by omega), hvalue]
    omega
  · have hpattern : fixtureTemp5 t = BitVec.ofInt 16 t := if_pos hnonneg
    have hvalue := toNat_ofInt_of_lt (w := 16) (v := t) hnonneg (by omega)
    rw [hpattern, df5Temp, if_neg (by omega), hvalue]

theorem fixturePower_toNat {b : Nat} {x : Int} (hbmin : 1600 ≤ b) (hbmax : b ≤ 3647) (hxmin : -40 ≤ x) (hxmax : x ≤ 22) :
    ((fixturePower b x).toNat : Int) = ((b : Int) - 1600) * 32 + (x + 40) / 2 :=
  toNat_ofInt_of_lt (by omega) (by omega)

theorem powerBattery_fixturePower {b : Nat} {x : Int} (hbmin : 1600 ≤ b) (hbmax : b ≤ 3647) (hxmin : -40 ≤ x)
    (hxmax : x ≤ 22) : powerBattery (fixturePower b x) = b := by
  have hvalue := fixturePower_toNat hbmin hbmax hxmin hxmax
  rw [powerBattery_eq]
  omega

theorem powerTx_fixturePower {b : Nat} {x : Int} (hbmin : 1600 ≤ b) (hbmax : b ≤ 3647) (hxmin : -40 ≤ x)
    (hxmax : x ≤ 22) (heven : x % 2 = 0) : powerTx (fixturePower b x) = x := by
  have hvalue := fixturePower_toNat hbmin hbmax hxmin hxmax
  rw [powerTx_eq]
  omega

/-- Settles O50: the fields of the fixture are its targets. -/
theorem format5FixturesHitTheirTargets : Obligations.Format5FixturesHitTheirTargets := by
  intro h p b q t ax ay az x mv s hv hh htmin htmax hpmin hpmax hbmin hbmax hq hxmin hxmax heven haxmin haxmax haymin
    haymax hazmin hazmax
  have hhum : (BitVec.ofNat 16 h).toNat = h := (BitVec.toNat_ofNat h 16).trans (Nat.mod_eq_of_lt (by omega))
  have hseq : (BitVec.ofNat 16 q).toNat = q := (BitVec.toNat_ofNat q 16).trans (Nat.mod_eq_of_lt (by omega))
  refine exec_observe_reading hv (r := .v5 ⟨t, h, p, ax, ay, az, b, x, mv, q⟩) ?_
  rw [fixtureDf5, operationOutcome, fields5, df5Temp_fixtureTemp5 htmin htmax, hhum, pressureOf_fixture hpmin hpmax,
    twosComplement16_ofInt haxmin haxmax, twosComplement16_ofInt haymin haymax, twosComplement16_ofInt hazmin hazmax,
    powerBattery_fixturePower hbmin hbmax hxmin hxmax, powerTx_fixturePower hbmin hbmax hxmin hxmax heven, hseq]

end Sys2Proof.Machine
end

section
/-! The host's URL text front end (45_url_front_end.md R181, R182, R184, R186): the marker test is containment, a text has
one fragment for each `#`, and the checks are made in order. -/

namespace Sys2Proof.Machine

theorem containsText_iff (marker text : Text) : containsText marker text = true ↔ marker <:+: text := by
  induction text with
  | nil => rw [containsText, List.isEmpty_iff, List.infix_nil]
  | cons c cs ih => rw [containsText, Bool.or_eq_true, List.isPrefixOf_iff_prefix, ih, List.infix_cons_iff]

/-- Containment as the statements write it. -/
theorem containsText_iff_exists (marker text : Text) :
    containsText marker text = true ↔ ∃ u v, text = u ++ marker ++ v := by
  rw [containsText_iff]
  simp only [List.IsInfix, eq_comm]

/-- Settles O51, by induction on the text: the marker starts at the first character or lies in the rest. -/
theorem markerTestIsContainment : Obligations.MarkerTestIsContainment :=
  containsText_iff_exists

theorem afterHashes_append {u : Text} (v : Text) (hu : '#' ∉ u) : afterHashes (u ++ v) = afterHashes v := by
  induction u with
  | nil => rfl
  | cons c cs ih =>
    obtain ⟨hc, hcs⟩ := List.ne_and_not_mem_of_not_mem_cons hu
    rw [List.cons_append, afterHashes, if_neg hc.symm, ih hcs]

theorem afterHashes_of_not_mem {text : Text} (h : '#' ∉ text) : afterHashes text = [] := by
  have happend := afterHashes_append [] h
  rwa [List.append_nil] at happend

theorem afterHashes_of_one_hash {u v : Text} (hu : '#' ∉ u) (hv : '#' ∉ v) : afterHashes (u ++ '#' :: v) = [v] := by
  rw [afterHashes_append _ hu, afterHashes, if_pos rfl, afterHashes_of_not_mem hv]

theorem fragment_of_not_mem (c : FrontEndParams) {text : Text} (h : '#' ∉ text) : fragment c text = none := by
  rw [fragment, afterHashes_of_not_mem h]

/-- With one `#` and something after it no open parameter is asked. -/
theorem fragment_of_one_hash (c : FrontEndParams) {u v : Text} {x : Char} (hu : '#' ∉ u) (hx : x ≠ '#') (hv : '#' ∉ v) :
    fragment c (u ++ '#' :: x :: v) = some (x :: v) := by
  have hxv : '#' ∉ x :: v := List.not_mem_cons_of_ne_of_not_mem hx.symm hv
  rw [fragment, afterHashes_of_one_hash hu hxv]
  rfl

/-- Settles O52: what stands after the one `#` is the one fragment there is. -/
theorem fragmentFollowsTheHash : Obligations.FragmentFollowsTheHash := by
  intro c text
  refine ⟨fragment_of_not_mem c, ?_⟩
  rintro u x v rfl hu hx hv
  exact fragment_of_one_hash c hu hx hv

theorem frontEndWith_of_b64_none {c : FrontEndParams} {text f : Text} (hmarker : containsText c.hostMarker text = true)
    (hfragment : fragment c text = some f) (hb64 : c.b64 (repairFragment c f) = none) :
    frontEndWith c text = .error .malformedEncoding := by
  simp only [frontEndWith, hmarker, if_true, hfragment, hb64]

theorem frontEndWith_of_b64_some {c : FrontEndParams} {text f : Text} {bytes : List Byte}
    (hmarker : containsText c.hostMarker text = true) (hfragment : fragment c text = some f)
    (hb64 : c.b64 (repairFragment c f) = some bytes) : frontEndWith c text = .ok bytes := by
  simp only [frontEndWith, hmarker, if_true, hfragment, hb64]

/-- Settles O54: one clause for each check, the later ones behind the earlier. -/
theorem frontEndChecksInOrder : Obligations.FrontEndChecksInOrder := by
  intro c text
  simp only [← containsText_iff_exists]
  refine ⟨fun hmarker => ?_, fun hmarker hhash => ?_, fun u x v hmarker htext hu hx hv => ?_⟩
  · rw [frontEndWith, if_neg hmarker]
  · rw [frontEndWith, if_pos hmarker, fragment_of_not_mem c hhash]
  · subst htext
    have hfragment := fragment_of_one_hash c hu hx hv
    cases hb64 : c.b64 (repairFragment c (x :: v)) with
    | none => exact frontEndWith_of_b64_none hmarker hfragment hb64
    | some bytes => exact frontEndWith_of_b64_some hmarker hfragment hb64

end Sys2Proof.Machine
end

section
/-! The hand-over of a payload and the two entry points (10_state.md R25; 44_dispatch.md R160; 45_url_front_end.md R185,
R186): the bytes past a payload's end reach neither the reference nor the outcome. -/

namespace Sys2Proof.Machine

theorem presentedFrom_getElem? (count a n : Nat) (bytes : List Byte) {k : Nat} (hn : k < n) (hk : k < bytes.length) :
    (presentedFrom count a n bytes)[k]? = bytes[k]? := by
  induction bytes generalizing a n k with
  | nil => exact absurd hk (Nat.not_lt_zero k)
  | cons b bs ih =>
    cases n with
    | zero => exact absurd hn (Nat.not_lt_zero k)
    | succ n =>
      cases k with
      | zero => rfl
      | succ k => exact ih (a + 1) n (Nat.lt_of_succ_lt_succ hn) (Nat.lt_of_succ_lt_succ hk)

/-- A byte of the payload is read where it stood. -/
theorem handOver_read (count : Nat) (t : Transport) {bytes : List Byte} {k : Nat} (hpl : k < Config.plBytes)
    (hk : k < bytes.length) : (handOver count t bytes).pl.read k = bytes.getD k 0 := by
  rw [handOver, read_driveFrom_zero _ hpl, List.getD_eq_getElem?_getD, presentedFrom_getElem? count 0 _ bytes hpl hk,
    List.getD_eq_getElem?_getD]

theorem handOver_len (count : Nat) (t : Transport) (bytes : List Byte) :
    (handOver count t bytes).len.toNat = min bytes.length 255 :=
  (BitVec.toNat_ofNat _ 8).trans (Nat.mod_eq_of_lt (Nat.lt_succ_of_le (Nat.min_le_right _ _)))

/-- Settles O55: the positions below 20 are driven with the payload's bytes as long as there are some. -/
theorem handOverPresentsThePayload : Obligations.HandOverPresentsThePayload := by
  intro count t bytes
  refine ⟨rfl, rfl, handOver_len count t bytes, fun k hpl hk => ?_, handOver_wf count t bytes⟩
  rw [handOver_read count t hpl hk, List.getD_eq_getElem _ _ hk, List.getElem?_eq_getElem hk]

/-! The reference reads only bytes below the length and below 20. -/

theorem refBe16_congr {f g : Nat → Nat} {k : Nat} (hhigh : f k = g k) (hlow : f (k + 1) = g (k + 1)) :
    refBe16 f k = refBe16 g k := by
  rw [refBe16, refBe16, hhigh, hlow]

theorem refDispatchUrl_congr {len : Nat} {f g : Nat → Nat} (h : ∀ k, k < len → k < 20 → f k = g k) :
    refDispatchUrl len f = refDispatchUrl len g := by
  rw [refDispatchUrl, refDispatchUrl]
  by_cases hlen : len < 6 ∨ len > 7
  · rw [if_pos hlen, if_pos hlen]
  have byte : ∀ k, k < 6 → f k = g k := fun k hk => h k (by omega) (by omega)
  have hpress : refBe16 f 4 = refBe16 g 4 := refBe16_congr (byte 4 (by decide)) (byte 5 (by decide))
  have heid : refEid len f = refEid len g := by
    rw [refEid, refEid]
    split
    · rw [h 6 (by omega) (by decide)]
    · rfl
  simp only [refDf2, refDf4, byte 0 (by decide), byte 1 (by decide), byte 2 (by decide), hpress, heid]

theorem refDf3_congr {f g : Nat → Nat} (h : ∀ k, k < 16 → f k = g k) : refDf3 f = refDf3 g := by
  have half : ∀ k, k < 15 → refBe16 f k = refBe16 g k := fun k hk =>
    refBe16_congr (h k (by omega)) (h (k + 1) (by omega))
  simp only [refDf3, h 3 (by decide), h 4 (by decide), h 5 (by decide), half 6 (by decide), half 8 (by decide),
    half 10 (by decide), half 12 (by decide), half 14 (by decide)]

theorem refDf5_congr {f g : Nat → Nat} (h : ∀ k, k < 20 → f k = g k) : refDf5 f = refDf5 g := by
  have half : ∀ k, k < 19 → refBe16 f k = refBe16 g k := fun k hk =>
    refBe16_congr (h k (by omega)) (h (k + 1) (by omega))
  simp only [refDf5, h 17 (by decide), half 3 (by decide), half 5 (by decide), half 7 (by decide), half 9 (by decide),
    half 11 (by decide), half 13 (by decide), half 15 (by decide), half 18 (by decide)]

theorem refDispatchRaw_congr {len : Nat} {f g : Nat → Nat} (h : ∀ k, k < len → k < 20 → f k = g k) :
    refDispatchRaw len f = refDispatchRaw len g := by
  rw [refDispatchRaw, refDispatchRaw]
  by_cases hlen : len < 3
  · rw [if_pos hlen, if_pos hlen]
  rw [if_neg hlen, if_neg hlen, h 2 (by omega) (by decide)]
  by_cases h16 : len = 16
  · rw [refDf3_congr fun k hk => h k (by omega) (by omega), if_pos (show len < 20 by omega),
      if_pos (show len < 20 by omega)]
  rw [if_pos h16, if_pos h16]
  by_cases h20 : len < 20
  · rw [if_pos h20, if_pos h20]
  · rw [refDf5_congr fun k hk => h k (by omega) (by omega)]

theorem refDecode_congr (t : Transport) {len : Nat} {f g : Nat → Nat} (h : ∀ k, k < len → k < 20 → f k = g k) :
    refDecode t len f = refDecode t len g := by
  cases t with
  | url => exact refDispatchUrl_congr h
  | raw => exact refDispatchRaw_congr h

/-- `Decode` of a hand-over is `Decode` of the payload's own bytes, whatever the host drives past its end (log 7). -/
theorem referenceOutcome_handOver (count : Nat) (t : Transport) (bytes : List Byte) :
    referenceOutcome (handOver count t bytes) =
      refDecode t (min bytes.length 255) (fun k => (bytes.getD k 0).toNat) := by
  rw [referenceOutcome, handOver_len]
  refine refDecode_congr t fun k hlen hpl => ?_
  rw [handOver_read count t hpl (by omega)]

theorem observe_settledPorts_handOver (count : Nat) (t : Transport) (bytes : List Byte) :
    observe (settledPorts (handOver count t bytes)) =
      some (refDecode t (min bytes.length 255) (fun k => (bytes.getD k 0).toNat)) := by
  obtain ⟨-, hobserve⟩ := (settledPorts_settled (handOver count t bytes)).2 rfl
  rw [hobserve, referenceOutcome_handOver]

/-! Which variants a transport can show. -/

/-- While a transaction is presented the ports are those of an operation its decoder selects, or of an error. -/
theorem settledPorts_variant {p : InPorts} (hv : p.inValid = true) :
    (settledPorts p).outValid = true ∧
      ((settledPorts p).variant = 0 ∨
        ∃ i, decode p.transport p.len p.pl = .ok i ∧ (settledPorts p).variant = variantFlag (operationOutcome i)) := by
  rcases decode_cases p.transport p.len p.pl with ⟨i, hd⟩ | ⟨e, hd⟩
  · rw [settledPorts_of_decode_ok hv hd]
    exact ⟨outcomePorts_outValid _, .inr ⟨i, hd, outcomePorts_variant _⟩⟩
  · rw [settledPorts_of_decode_error hv hd]
    exact ⟨outcomePorts_outValid _, .inl rfl⟩

theorem variant_of_raw {p : InPorts} (hv : p.inValid = true) (hraw : p.transport = .raw) :
    (settledPorts p).variant = 0 ∨ (settledPorts p).variant = 3 ∨ (settledPorts p).variant = 5 := by
  obtain ⟨-, hzero | ⟨i, hd, hvariant⟩⟩ := settledPorts_variant hv
  · exact .inl hzero
  rw [hraw] at hd
  obtain ⟨-, -, rfl⟩ | ⟨-, -, rfl⟩ := dispatchRaw_eq_ok_iff.mp hd <;> rw [hvariant, operationOutcome]
  · split
    · exact .inr (.inl rfl)
    · exact .inl rfl
  · exact .inr (.inr rfl)

theorem variant_of_url {p : InPorts} (hv : p.inValid = true) (hurl : p.transport = .url) :
    (settledPorts p).variant = 0 ∨ (settledPorts p).variant = 2 ∨ (settledPorts p).variant = 4 := by
  obtain ⟨-, hzero | ⟨i, hd, hvariant⟩⟩ := settledPorts_variant hv
  · exact .inl hzero
  rw [hurl] at hd
  obtain ⟨-, ⟨-, rfl⟩ | ⟨-, rfl⟩⟩ := dispatchUrl_eq_ok_iff.mp hd <;> rw [hvariant]
  · exact .inr (.inl rfl)
  · exact .inr (.inr rfl)

theorem settledPorts_outValid {p : InPorts} (hv : p.inValid = true) : (settledPorts p).outValid = true :=
  (settledPorts_variant hv).1

/-- A request that hands over a payload is served as the drive of the ports it makes. -/
theorem step_of_handOver {s : State} {t : Transport} {bytes : List Byte} {rest : List HostRequest}
    (hmove : hostMove s =
      ({ s with inp := handOver s.results.length t bytes, pending := rest }, .sample)) :
    step s = .next (s.served (handOver s.results.length t bytes) rest) := by
  rw [step_eq, hmove]
  rfl

/-- A request whose front end fails leaves the block idle and is recorded as the failure (log 11). -/
theorem step_of_frontEnd_error {s : State} {text : Text} {rest : List HostRequest} {e : FrontEndError}
    (hs : s.pending = .url text :: rest) (hfront : frontEnd text = .error e) :
    step s = .next { inp := { s.inp with inValid := false }, out := OutPorts.idle, pending := rest,
                     results := s.results ++ [.frontEnd e] } := by
  have hmove : hostMove s = ({ s with inp := { s.inp with inValid := false }, pending := rest }, .report e) := by
    simp only [hostMove, hs, hfront]
  have hports : settledPorts { s.inp with inValid := false } = OutPorts.idle := settledPorts_of_idle rfl
  rw [step_eq, hmove]
  simp only [hports]
  rfl

/-- Settles O56: the sample is that of the hand-over, and the RAW dispatcher selects DF3 and DF5 only. -/
theorem advertisementsYieldFormat3Or5 : Obligations.AdvertisementsYieldFormat3Or5 := by
  intro s bytes rest hs
  have hmove : hostMove s = ({ s with inp := handOver s.results.length .raw bytes, pending := rest }, .sample) := by
    rw [hostMove, hs]
  have hvariant := variant_of_raw (p := handOver s.results.length .raw bytes) rfl rfl
  refine ⟨_, _, step_of_handOver hmove, rfl, rfl, settledPorts_outValid rfl, ?not2, ?not4,
    observe_settledPorts_handOver _ _ bytes⟩
  case not2 => rcases hvariant with h | h | h <;> rw [h] <;> decide
  case not4 => rcases hvariant with h | h | h <;> rw [h] <;> decide

/-- Settles O57: a failing front end leaves no transaction presented; else the sample is that of the hand-over, and the URL
dispatcher selects DF2 and DF4 only. -/
theorem urlsYieldFormat2Or4OrAFrontEndError : Obligations.UrlsYieldFormat2Or4OrAFrontEndError := by
  intro s text rest hs
  cases hfront : frontEnd text with
  | error e => exact ⟨_, step_of_frontEnd_error hs hfront, rfl, rfl, rfl, rfl⟩
  | ok bytes =>
    have hmove : hostMove s = ({ s with inp := handOver s.results.length .url bytes, pending := rest }, .sample) := by
      simp only [hostMove, hs, hfront]
    have hvariant := variant_of_url (p := handOver s.results.length .url bytes) rfl rfl
    refine ⟨_, step_of_handOver hmove, rfl, _, rfl, settledPorts_outValid rfl, ?not3, ?not5,
      observe_settledPorts_handOver _ _ bytes⟩
    case not3 => rcases hvariant with h | h | h <;> rw [h] <;> decide
    case not5 => rcases hvariant with h | h | h <;> rw [h] <;> decide

end Sys2Proof.Machine
end
